-- ==== Sys2Proof/Word.lean ====
section
/-! DEFINITION. The word types of the frame codec block (R8, R9): every wire item and every host register is a
byte; host addresses have 10 bits; a host transaction is a 20-bit word. -/

namespace Sys2Proof

/-- `DATA_W` = 8 (R8): a wire byte or a host register. -/
abbrev Byte := BitVec 8

/-- `HOST_AW` = 10 (R8, R71): a host byte address, 0x000 to 0x3FF. -/
abbrev HostAddr := BitVec 10

/-- A host transaction word `{W, 0, A[9:0], D[7:0]}` (R110). -/
abbrev HostWord := BitVec 20

end Sys2Proof
end

