-- ==== Sys2Proof/Config.lean ====
section
/-! DEFINITION. The block's parameters (R8) and its free values. An `opaque` constant has no body a proof could
read: what is proved holds for every value of it. `DATA_W`, `HOST_AW` and `TIMEOUT_W` are the widths of the types
`Byte` and `HostAddr` and of TMR. -/

namespace Sys2Proof

/-- `MARKER` (R8, R100): a frame opens with it twice. -/
def Config.marker : Byte := 0xFF

/-- `MAX_PAYLOAD` (R8): the longest payload of a frame, and the size of each buffer (`BUF_DEPTH`). -/
def Config.maxPayload : Nat := 253

/-- The one destination address that is illegal in an instruction frame, above `MAX_ADDR_TX` = 0xFE (R8, R106). -/
def Config.invalidAddr : Byte := 0xFF

/-- `TIMEOUT_RESET` (R8, R28, R29, I20): OPEN, the 16-bit reset value of TIMEOUT. Log 4. -/
opaque Config.timeoutReset : BitVec 16

/-- What a byte of TX_BUF or RX_BUF that nothing has written since power-up holds, by its host address: "any value",
drawn once for each byte (R40, R41, I3). Log 3. -/
opaque Config.unwrittenByte : Nat → Byte

/-- `frame_byte(i)` for an index past the checksum, which R162 leaves undefined and the block never asks for (R59 (4)).
Log 8. -/
opaque Config.undefinedFrameByte : Nat → Byte

/-- `OPC_PING` (R8, R107): 0x01, from the source's ping frame. -/
def Config.opcPing : Byte := 0x01

/-- `OPC_READ` (R8, R107, D36): OPEN, a free value. Log 13. -/
opaque Config.opcRead : Byte

/-- `OPC_WRITE` (R8, R107, D36): OPEN, a free value. Log 13. -/
opaque Config.opcWrite : Byte

/-- `OPC_RESET` (R8, R107, D36): OPEN, a free value. Log 13. -/
opaque Config.opcReset : Byte

/-- `OPC_SYNC_WRITE` (R8, R107, D36): OPEN, a free value. Log 13. -/
opaque Config.opcSyncWrite : Byte

/-- `BCAST_ADDR` (R8): the broadcast address. The block gives it no meaning of its own (R106 (5), R132). -/
def Config.bcastAddr : Byte := 0xFE

/-- `TICK_PERIOD` (R8, R261, I21): OPEN, the clock cycles between ticks; no rule depends on it. Log 14. -/
opaque Config.tickPeriod : Nat

/-- What `LINE_FORMAT` says of the external UART's line (R8): its four items as numbers. Log 14. -/
structure LineFormat where
  baud     : Nat
  dataBits : Nat
  parity   : Nat
  stopBits : Nat
  deriving DecidableEq, Repr, Inhabited

/-- `LINE_FORMAT` (R8, R323, I21): OPEN; it belongs to the external UART and no rule depends on it. Log 14. -/
opaque Config.lineFormat : LineFormat

/-! The opcode bytes the opcode table's rows match (R116), which name frames; they are not the parameters `OPC_READ` and
so on, which stay OPEN. Log 13. -/

/-- Byte 4 of the table's READ row. -/
def Config.tableRead : Byte := 0x02

/-- Byte 4 of the table's WRITE row. -/
def Config.tableWrite : Byte := 0x03

/-- Byte 4 of the table's RESET row. -/
def Config.tableReset : Byte := 0x06

/-- Byte 4 of the table's SYNC_WRITE row. -/
def Config.tableSyncWrite : Byte := 0x83

end Sys2Proof
end

