-- ==== Sys2Proof/Syntax.lean ====
section
/-! DEFINITION. The instructions: one constructor per instruction of spec/opcode_table.json (R116). The table's six
CMD_RSVD rows are one instruction whose range 0x04 to 0xFF takes six masks to write (R111; log 9). -/

namespace Sys2Proof

/-- A wire frame `FF FF addr len code body` (R100, R101). `code` is the opcode of an instruction frame or the error
byte of a status frame; `body` is the payload followed by the checksum byte. All bytes are as they stand on the wire:
a frame with a wrong checksum, or with a length byte that no frame may have, is a frame too. -/
structure Frame where
  addr : Byte
  len  : Byte
  code : Byte
  body : List Byte
  deriving DecidableEq, Repr

/-- The frame's bytes in wire order, marker first (R76, R100, R101). -/
def Frame.bytes (f : Frame) : List Byte :=
  Config.marker :: Config.marker :: f.addr :: f.len :: f.code :: f.body

/-- The three values of the opcode table's `format` field (R116). -/
inductive Format where
  | host20 | wireInstr | wireStatus
  deriving DecidableEq, Repr

/-- The instructions of the opcode table. -/
inductive Instr where
  /-- `wr CMD, 0x00` (R137). -/
  | nop
  /-- `wr CMD, 0x01` (R131 to R133). -/
  | start
  /-- `wr CMD, 0x02` (R134). -/
  | abort
  /-- `wr CMD, 0x03` (R135, R136). -/
  | clear
  /-- `wr CMD, d` with `d` in 0x04 to 0xFF (R137). -/
  | cmdRsvd (d : Byte)
  /-- `wr a, d` with `a` not CMD (R74). -/
  | hostWr (a : HostAddr) (d : Byte)
  /-- `rd a` (R73). -/
  | hostRd (a : HostAddr)
  /-- An instruction frame whose opcode is none of the five the table names (R100, R162). -/
  | instrFrame (f : Frame)
  /-- A status frame (R101, R204). -/
  | statusFrame (f : Frame)
  /-- An instruction frame with opcode `OPC_PING` (R107). -/
  | ping (addr len : Byte) (body : List Byte)
  /-- An instruction frame with the opcode byte of the table's READ row, 0x02 (R116; log 13). -/
  | read (addr len : Byte) (body : List Byte)
  /-- An instruction frame with the opcode byte of the table's WRITE row, 0x03 (R116; log 13). -/
  | write (addr len : Byte) (body : List Byte)
  /-- An instruction frame with the opcode byte of the table's RESET row, 0x06 (R116; log 13): the device's
  reset-to-defaults, not the block's Reset (R107). -/
  | reset (addr len : Byte) (body : List Byte)
  /-- An instruction frame with the opcode byte of the table's SYNC_WRITE row, 0x83 (R116; log 13). -/
  | syncWrite (addr len : Byte) (body : List Byte)
  deriving DecidableEq, Repr

/-- The instruction's mnemonic in spec/opcode_table.json. -/
def Instr.mnemonic : Instr → String
  | .nop => "NOP"
  | .start => "START"
  | .abort => "ABORT"
  | .clear => "CLEAR"
  | .cmdRsvd _ => "CMD_RSVD"
  | .hostWr _ _ => "HOST_WR"
  | .hostRd _ => "HOST_RD"
  | .instrFrame _ => "INSTR_FRAME"
  | .statusFrame _ => "STATUS_FRAME"
  | .ping _ _ _ => "PING"
  | .read _ _ _ => "READ"
  | .write _ _ _ => "WRITE"
  | .reset _ _ _ => "RESET"
  | .syncWrite _ _ _ => "SYNC_WRITE"

/-- The frame that leaves the block when the instruction is an instruction frame (R100, R107). -/
def Instr.sentFrame : Instr → Option Frame
  | .nop => none
  | .start => none
  | .abort => none
  | .clear => none
  | .cmdRsvd _ => none
  | .hostWr _ _ => none
  | .hostRd _ => none
  | .instrFrame f => some f
  | .statusFrame _ => none
  | .ping addr len body => some ⟨addr, len, Config.opcPing, body⟩
  | .read addr len body => some ⟨addr, len, Config.tableRead, body⟩
  | .write addr len body => some ⟨addr, len, Config.tableWrite, body⟩
  | .reset addr len body => some ⟨addr, len, Config.tableReset, body⟩
  | .syncWrite addr len body => some ⟨addr, len, Config.tableSyncWrite, body⟩

/-- How an instruction is coded (R110, R116): a 20-bit host transaction word, or the bytes of a wire frame the block
sends or receives. -/
inductive Code where
  | host (w : HostWord)
  | instrFrame (bytes : List Byte)
  | statusFrame (bytes : List Byte)
  deriving DecidableEq, Repr

/-- The table's format of a code (R116). -/
def Code.format : Code → Format
  | .host _ => .host20
  | .instrFrame _ => .wireInstr
  | .statusFrame _ => .wireStatus

end Sys2Proof
end

