-- ==== Sys2Proof/WellFormed.lean ====
section
/-! DEFINITION. Which instruction terms are the canonical reading of some code. -/

namespace Sys2Proof

/-- After its length byte `L` a frame has exactly `L` more bytes (R102, R105): the error or opcode byte and a body of
`L - 1`. With `L` of 0 or 1 nothing follows the fifth byte (log 18). -/
abbrev Frame.WF (f : Frame) : Prop := f.body.length = f.len.toNat - 1

/-- The opcode bytes that have a row of their own in the table (R116; log 13). -/
def Config.namedOpcodes : List Byte :=
  [Config.opcPing, Config.tableRead, Config.tableWrite, Config.tableReset, Config.tableSyncWrite]

/-- The canonical terms: a reserved command is none of 0x00 to 0x03 (R111); a write to CMD is a command, not a HOST_WR
(the table's note on HOST_WR); a frame has the length its length byte says; and a frame with a named opcode is written
with that opcode's own constructor (log 13). -/
def Instr.wf : Instr → Bool
  | .nop => true
  | .start => true
  | .abort => true
  | .clear => true
  | .cmdRsvd d => decide (4 ≤ d.toNat)
  | .hostWr a _ => decide (a ≠ 0)
  | .hostRd _ => true
  | .instrFrame f => decide (f.WF ∧ f.code ∉ Config.namedOpcodes)
  | .statusFrame f => decide f.WF
  | .ping addr len body => decide (Frame.WF ⟨addr, len, Config.opcPing, body⟩)
  | .read addr len body => decide (Frame.WF ⟨addr, len, Config.tableRead, body⟩)
  | .write addr len body => decide (Frame.WF ⟨addr, len, Config.tableWrite, body⟩)
  | .reset addr len body => decide (Frame.WF ⟨addr, len, Config.tableReset, body⟩)
  | .syncWrite addr len body => decide (Frame.WF ⟨addr, len, Config.tableSyncWrite, body⟩)

end Sys2Proof
end

