-- ==== Sys2Proof/Decode.lean ====
section
/-! DEFINITION. Decoding (R110, R111, R116): host words and wire bytes to instructions, total, rejecting by name; then
the encoder, the opcode table as data, and the host's two entry points over table-numbered words. -/

namespace Sys2Proof

/-- Why a code spells no instruction. -/
inductive DecodeError where
  /-- A host word with bit 18 set "spells no transaction" (R110, I14). -/
  | reservedBit18
  /-- The bytes do not open with the marker, so no wire row matches (R116). -/
  | noMarker
  /-- Fewer bytes than the frame's length byte says, or fewer than the five a wire row fixes (R105, R116). -/
  | frameTooShort
  /-- More bytes than the frame's length byte says (R105). -/
  | frameTooLong
  deriving DecidableEq, Repr

/-- Field W of a host word: 1 a write, 0 a read (R110). -/
def HostWord.isWrite (w : HostWord) : Bool := w.getLsbD 19

/-- Field A of a host word, bits 17:8 (R110). -/
def HostWord.addr (w : HostWord) : HostAddr := w.extractLsb' 8 10

/-- Field D of a host word, bits 7:0 (R110). -/
def HostWord.data (w : HostWord) : Byte := w.extractLsb' 0 8

/-- The command a write of `d` to CMD carries (R111): the whole byte selects it. -/
def decodeCommand (d : Byte) : Instr :=
  if d = 0x00 then .nop
  else if d = 0x01 then .start
  else if d = 0x02 then .abort
  else if d = 0x03 then .clear
  else .cmdRsvd d

/-- A host transaction word (R110). The data bits of a read play no part: "every 20-bit word with bit 18 = 0 is a
valid transaction" (log 7). -/
def decodeHost (w : HostWord) : Except DecodeError Instr :=
  if w.getLsbD 18 then .error .reservedBit18
  else if w.isWrite then
    if w.addr = 0 then .ok (decodeCommand w.data) else .ok (.hostWr w.addr w.data)
  else .ok (.hostRd w.addr)

/-- The bytes of a wire frame, cut into its fields (R100, R101, R105). -/
def decodeFrame : List Byte → Except DecodeError Frame
  | m1 :: m2 :: addr :: len :: code :: body =>
    if m1 = Config.marker ∧ m2 = Config.marker then
      if body.length < len.toNat - 1 then .error .frameTooShort
      else if len.toNat - 1 < body.length then .error .frameTooLong
      else .ok ⟨addr, len, code, body⟩
    else .error .noMarker
  | _ => .error .frameTooShort

/-- The instruction an instruction frame is: its opcode's own row where it has one, else INSTR_FRAME (R116 (2),
log 13). -/
def instrOfFrame (f : Frame) : Instr :=
  if f.code = Config.opcPing then .ping f.addr f.len f.body
  else if f.code = Config.tableRead then .read f.addr f.len f.body
  else if f.code = Config.tableWrite then .write f.addr f.len f.body
  else if f.code = Config.tableReset then .reset f.addr f.len f.body
  else if f.code = Config.tableSyncWrite then .syncWrite f.addr f.len f.body
  else .instrFrame f

/-- The decoder. -/
def decode : Code → Except DecodeError Instr
  | .host w => decodeHost w
  | .instrFrame bytes => (decodeFrame bytes).map instrOfFrame
  | .statusFrame bytes => (decodeFrame bytes).map .statusFrame

/-- A host word from its fields (R110). -/
def encodeHost (isWrite : Bool) (a : HostAddr) (d : Byte) : HostWord :=
  BitVec.ofBool isWrite ++ 0#1 ++ a ++ d

/-- The encoder, from the encoding tables of R100, R101, R110 and R111. -/
def encode : Instr → Code
  | .nop => .host (encodeHost true 0 0x00)
  | .start => .host (encodeHost true 0 0x01)
  | .abort => .host (encodeHost true 0 0x02)
  | .clear => .host (encodeHost true 0 0x03)
  | .cmdRsvd d => .host (encodeHost true 0 d)
  | .hostWr a d => .host (encodeHost true a d)
  | .hostRd a => .host (encodeHost false a 0x00)
  | .instrFrame f => .instrFrame f.bytes
  | .statusFrame f => .statusFrame f.bytes
  | .ping addr len body => .instrFrame (Frame.bytes ⟨addr, len, Config.opcPing, body⟩)
  | .read addr len body => .instrFrame (Frame.bytes ⟨addr, len, Config.tableRead, body⟩)
  | .write addr len body => .instrFrame (Frame.bytes ⟨addr, len, Config.tableWrite, body⟩)
  | .reset addr len body => .instrFrame (Frame.bytes ⟨addr, len, Config.tableReset, body⟩)
  | .syncWrite addr len body => .instrFrame (Frame.bytes ⟨addr, len, Config.tableSyncWrite, body⟩)

/-! ### The opcode table as data (R116) -/

/-- A HOST20 row: a word `w` matches when `w &&& mask = bits`. -/
structure HostRow where
  mnemonic : String
  bits     : HostWord
  mask     : HostWord
  deriving DecidableEq, Repr

/-- The HOST20 rows, in the table's order. -/
def hostRows : List HostRow :=
  [⟨"NOP", 0x80000, 0xFFFFF⟩, ⟨"START", 0x80001, 0xFFFFF⟩, ⟨"ABORT", 0x80002, 0xFFFFF⟩, ⟨"CLEAR", 0x80003, 0xFFFFF⟩,
   ⟨"CMD_RSVD", 0x80004, 0xFFFFC⟩, ⟨"CMD_RSVD", 0x80008, 0xFFFF8⟩, ⟨"CMD_RSVD", 0x80010, 0xFFFF0⟩,
   ⟨"CMD_RSVD", 0x80020, 0xFFFE0⟩, ⟨"CMD_RSVD", 0x80040, 0xFFFC0⟩, ⟨"CMD_RSVD", 0x80080, 0xFFF80⟩,
   ⟨"HOST_WR", 0x80000, 0xC0000⟩, ⟨"HOST_RD", 0x00000, 0xC00FF⟩]

/-- "A decoder takes the first row that matches" (R116 (1)): that row's mnemonic. -/
def firstHostRow (w : HostWord) : Option String :=
  (hostRows.find? fun r => w &&& r.mask == r.bits).map (·.mnemonic)

/-- A wire row. Every mask of the table's wire rows is made of whole bytes 00 and FF, so a row fixes some of the first
five bytes and leaves the others free. -/
structure WireRow where
  mnemonic : String
  fixed    : List (Option Byte)
  deriving DecidableEq, Repr

/-- The WIRE_INSTR rows, those of the device opcodes before the generic one they refine (R116 (2), log 13). -/
def instrRows : List WireRow :=
  [⟨"PING", [some 0xFF, some 0xFF, none, none, some 0x01]⟩, ⟨"READ", [some 0xFF, some 0xFF, none, none, some 0x02]⟩,
   ⟨"WRITE", [some 0xFF, some 0xFF, none, none, some 0x03]⟩, ⟨"RESET", [some 0xFF, some 0xFF, none, none, some 0x06]⟩,
   ⟨"SYNC_WRITE", [some 0xFF, some 0xFF, none, none, some 0x83]⟩,
   ⟨"INSTR_FRAME", [some 0xFF, some 0xFF, none, none, none]⟩]

/-- The WIRE_STATUS rows. -/
def statusRows : List WireRow :=
  [⟨"STATUS_FRAME", [some 0xFF, some 0xFF, none, none, none]⟩]

/-- Whether bytes begin with what a wire row fixes. -/
def matchesFixed : List (Option Byte) → List Byte → Bool
  | [], _ => true
  | _ :: _, [] => false
  | none :: fs, _ :: bs => matchesFixed fs bs
  | some f :: fs, b :: bs => f == b && matchesFixed fs bs

/-- The mnemonic of the first wire row that matches. -/
def firstWireRow (rows : List WireRow) (bytes : List Byte) : Option String :=
  (rows.find? fun r => matchesFixed r.fixed bytes).map (·.mnemonic)

/-- The table's mnemonic for a code. -/
def tableMnemonic : Code → Option String
  | .host w => firstHostRow w
  | .instrFrame bytes => firstWireRow instrRows bytes
  | .statusFrame bytes => firstWireRow statusRows bytes

/-! ### Words numbered as the table numbers them -/

/-- The `k` bytes of a number whose most significant byte comes first, as R116 (2) reads a frame's first five bytes. -/
def bytesMsbFirst (k w : Nat) : List Byte :=
  (List.range k).map fun i => BitVec.ofNat 8 (w >>> (8 * (k - 1 - i)))

/-- Zero bytes added up to the length the frame's length byte says. -/
def padFrame (bytes : List Byte) : List Byte :=
  bytes ++ List.replicate ((bytes.getD 3 0).toNat + 4 - bytes.length) 0x00

/-- The code a table-numbered word of `nbits` bits stands for (log 16): up to 32 bits a host word; above, the first
bytes of an instruction frame, the rest of it zero. A number that is no 20-bit word spells nothing. -/
def tableCode (nbits w : Nat) : Code :=
  if nbits ≤ 32 then
    if w < 2 ^ 20 then .host (BitVec.ofNat 20 w) else .instrFrame []
  else .instrFrame (padFrame (bytesMsbFirst (nbits / 8) w))

/-- The instruction the decoder reads from a table-numbered word. -/
def decodeTableWord (nbits w : Nat) : Option Instr :=
  match decode (tableCode nbits w) with
  | .ok i => some i
  | .error _ => none

end Sys2Proof
end

