-- ==== Sys2Proof/Machine/State.lean ====
section
/-! DEFINITION. The state of the block, field by field as 10_state.md names it, as plain data; its value after reset;
and the reasons a step can stop. -/

namespace Sys2Proof.Machine

/-- The ten values of PHASE (R21). -/
inductive Phase where
  | idle | tx | turn | rxM1 | rxM2 | rxAddr | rxLen | rxErr | rxPay | rxCsum
  deriving DecidableEq, Repr

/-- The fault codes (R280). These are what FAULT_CODE can hold: a fault of the block ends an exchange and the machine
goes on. -/
inductive FaultCode where
  | none | invalidAddress | payloadTooLong | framing | addrMismatch | length | checksum | timeout | aborted
  deriving DecidableEq, Repr

/-- The buffers' bytes as (host address, byte) cells. In its canonical form (`Memory.wf`) the addresses strictly rise.
An address that is not listed has not been written since power-up (log 2). -/
abbrev Memory := List Host.Cell

/-- The block's input ports in one clock cycle (R60, R261). `host` is the host access of a cycle with H_SEL = 1, as
its transaction word; `rx` is RX_DATA of a cycle with RX_VALID = 1. -/
structure Cycle where
  rst    : Bool
  host   : Option HostWord
  rx     : Option Byte
  txAck  : Bool
  txIdle : Bool
  tick   : Bool
  deriving DecidableEq, Repr

/-- What the outside world does next (log 1). -/
inductive Input where
  /-- One clock cycle. -/
  | cycle (c : Cycle)
  /-- A run of cycles in which the UART takes an instruction frame from the block, a byte each. -/
  | instrFrame (bytes : List Byte)
  /-- A run of cycles in which the UART delivers a status frame, a byte each. -/
  | statusFrame (bytes : List Byte)
  deriving DecidableEq, Repr

/-- The state of the block. -/
structure State where
  /-- PHASE (R21). -/
  phase      : Phase
  /-- CFG[1:0], the bits of CFG that exist: SUPPRESS and IRQ_EN (R24; log 12). -/
  cfg        : BitVec 2
  /-- TX_ADDR (R25). -/
  txAddr     : Byte
  /-- TX_OPC (R26). -/
  txOpc      : Byte
  /-- TX_LEN (R27). -/
  txLen      : Byte
  /-- TIMEOUT_LO (R28). -/
  timeoutLo  : Byte
  /-- TIMEOUT_HI (R29). -/
  timeoutHi  : Byte
  /-- STATUS.DONE (R33). -/
  done       : Bool
  /-- STATUS.DEVERR (R35). -/
  deverr     : Bool
  /-- STATUS.REJ (R36). -/
  rej        : Bool
  /-- FAULT_CODE (R38). -/
  faultCode  : FaultCode
  /-- FAULT_PHASE (R42). -/
  faultPhase : Phase
  /-- RX_ADDR (R43). -/
  rxAddr     : Byte
  /-- RX_LEN (R44). -/
  rxLen      : Byte
  /-- RX_ERR (R45). -/
  rxErr      : Byte
  /-- RX_CSUM (R46). -/
  rxCsum     : Byte
  /-- RX_CALC (R47). -/
  rxCalc     : Byte
  /-- RX_CNT (R48). -/
  rxCnt      : Byte
  /-- TX_CSUM (R49). -/
  txCsum     : Byte
  /-- IDX (R50). -/
  idx        : BitVec 9
  /-- ACC (R51). -/
  acc        : Byte
  /-- M1 (R52). -/
  m1         : Byte
  /-- TMR (R53). -/
  tmr        : BitVec 16
  /-- ABRT (R54). -/
  abrt       : Bool
  /-- TX_BUF and RX_BUF (R40, R41), by host address. -/
  mem        : Memory
  /-- H_RDATA in the last cycle, if it read (R60, R261). The model's field: log 6. -/
  hRData     : Option Byte
  /-- The bytes the UART has taken, oldest first: the outgoing wire stream (R70 (2)). The model's field: log 6. -/
  sent       : List Byte
  /-- What the outside world does next, first entry first. The model's field: log 1. -/
  inputs     : List Input
  deriving DecidableEq, Repr

/-- The machine right after reset (R320), at power-up: no buffer byte written yet (log 5). -/
def State.reset : State where
  phase      := .idle
  cfg        := 0
  txAddr     := 0x00
  txOpc      := 0x00
  txLen      := 0x00
  timeoutLo  := Config.timeoutReset.extractLsb' 0 8
  timeoutHi  := Config.timeoutReset.extractLsb' 8 8
  done       := false
  deverr     := false
  rej        := false
  faultCode  := .none
  faultPhase := .idle
  rxAddr     := 0x00
  rxLen      := 0x00
  rxErr      := 0x00
  rxCsum     := 0x00
  rxCalc     := 0x00
  rxCnt      := 0x00
  txCsum     := 0x00
  idx        := 0
  acc        := 0x00
  m1         := 0x00
  tmr        := 0
  abrt       := false
  mem        := []
  hRData     := .none
  sent       := []
  inputs     := []

/-- Reasons for a machine fault. There is none: every event has a next state in every state (R13, I15), and the
faults of the spec are codes in FAULT_CODE (R280). -/
inductive Fault where
  deriving DecidableEq, Repr

/-- Reasons for a refusal. -/
inductive Refusal where
  /-- Raised by an arm of `exec` whose instruction has no meaning yet. Safe. -/
  | notModelled (mnemonic : String)
  /-- Raised by `step` on an input that spells no instruction: a host word with bit 18 set, which R110 and I14 refuse,
  or a whole-frame input whose bytes are no frame. Safe: no run is built from it. -/
  | undecodable (reason : DecodeError)
  deriving DecidableEq, Repr

end Sys2Proof.Machine
end

