-- ==== Sys2Proof/Machine/Flags.lean ====
section
/-! DEFINITION. Codes, flags and outputs: the values of PHASE and FAULT_CODE, the STATUS byte (R31 to R37), the
output ports (R55 to R57), and the error-flag parser (43_error_flags.md). -/

namespace Sys2Proof.Machine

/-- The code of a phase (R21). -/
def Phase.code : Phase → BitVec 4
  | .idle => 0
  | .tx => 1
  | .turn => 2
  | .rxM1 => 3
  | .rxM2 => 4
  | .rxAddr => 5
  | .rxLen => 6
  | .rxErr => 7
  | .rxPay => 8
  | .rxCsum => 9

/-- "Phases 3 to 9 are the RX phases" (R21). -/
def Phase.isRx (p : Phase) : Bool := decide (3 ≤ p.code.toNat)

/-- "Phases 1 and 2 are the TX phases" (R21). -/
def Phase.isTx (p : Phase) : Bool := decide (p = .tx ∨ p = .turn)

/-- The code of a fault (R280). -/
def FaultCode.code : FaultCode → BitVec 4
  | .none => 0
  | .invalidAddress => 1
  | .payloadTooLong => 2
  | .framing => 3
  | .addrMismatch => 4
  | .length => 5
  | .checksum => 6
  | .timeout => 7
  | .aborted => 8

/-- The classes of the source's taxonomy (R281). `aborted` is none of them: it is the model's own class for code 8,
which "has no source counterpart" and for which R281 names no class. DESIGN CHOICE, log 21. -/
inductive FaultClass where
  | configurationError | framingFault | timeout | aborted
  deriving DecidableEq, Repr

/-- The class of a fault code (R281); NONE has none, and ABORTED has the model's own (DESIGN CHOICE, log 21). -/
def FaultCode.faultClass : FaultCode → Option FaultClass
  | .none => Option.none
  | .invalidAddress => some .configurationError
  | .payloadTooLong => some .configurationError
  | .framing => some .framingFault
  | .addrMismatch => some .framingFault
  | .length => some .framingFault
  | .checksum => some .framingFault
  | .timeout => some .timeout
  | .aborted => some .aborted

/-- CFG.SUPPRESS (R24). -/
def State.suppress (s : State) : Bool := s.cfg.getLsbD 0

/-- CFG.IRQ_EN (R24). -/
def State.irqEn (s : State) : Bool := s.cfg.getLsbD 1

/-- STATUS.BUSY (R32). -/
def State.busy (s : State) : Bool := decide (s.phase ≠ .idle)

/-- STATUS.FAULT (R34). -/
def State.fault (s : State) : Bool := decide (s.faultCode ≠ .none)

/-- The IRQ output and STATUS.IRQ (R37, R57). -/
def State.irq (s : State) : Bool := s.done && s.irqEn

/-- The STATUS byte (R31): bit 0 BUSY, 1 DONE, 2 FAULT, 3 DEVERR, 4 REJ, 5 IRQ, 7:6 zero. -/
def State.status (s : State) : Byte :=
  0#2 ++ BitVec.ofBool s.irq ++ BitVec.ofBool s.rej ++ BitVec.ofBool s.deverr ++ BitVec.ofBool s.fault
    ++ BitVec.ofBool s.done ++ BitVec.ofBool s.busy

/-- `TIMEOUT = {TIMEOUT_HI, TIMEOUT_LO}` (R30). -/
def State.timeout (s : State) : BitVec 16 := s.timeoutHi ++ s.timeoutLo

/-- The DIR output: the block drives the bus (R55). -/
def State.dir (s : State) : Bool := s.phase.isTx

/-- The TX_VALID output (R56). -/
def State.txValid (s : State) : Bool := decide (s.phase = .tx)

/-- The error flags of a status frame's error byte (R230). -/
inductive ErrorFlag where
  | inputVoltage | angleLimit | overheating | range | checksum | overload | instruction | reserved7
  deriving DecidableEq, Repr

/-- The flag a bit of the error byte stands for, bit 0 first (R230). -/
def errorFlagNames : List ErrorFlag :=
  [.inputVoltage, .angleLimit, .overheating, .range, .checksum, .overload, .instruction, .reserved7]

/-- The bit number of an error flag (R230). -/
def ErrorFlag.bit : ErrorFlag → Nat
  | .inputVoltage => 0
  | .angleLimit => 1
  | .overheating => 2
  | .range => 3
  | .checksum => 4
  | .overload => 5
  | .instruction => 6
  | .reserved7 => 7

/-- `decode_error_flags(e)` (R231, R232): the flags of the set bits, each once, in bit order. -/
def decodeErrorFlags (e : Byte) : List ErrorFlag :=
  errorFlagNames.filter fun f => e.getLsbD f.bit

/-- The source's `DeviceFault{address, flags}` (R16, R35, R200): what a completed exchange with DEVERR reports. -/
def State.deviceFault (s : State) : Option (Byte × List ErrorFlag) :=
  if s.deverr then some (s.rxAddr, decodeErrorFlags s.rxErr) else none

end Sys2Proof.Machine
end

