-- ==== Sys2Proof/Machine/Operands.lean ====
section
/-! DEFINITION. Operands: the host address map (R72), the buffers' bytes, what a host read returns (R73), and the
instruction frame the TX fields make (R161, R162). -/

namespace Sys2Proof.Machine

/-- `sum8` (R10). -/
def sum8 : List Byte → Byte
  | [] => 0
  | b :: bs => b + sum8 bs

/-- The locations of the host address map (R72). -/
inductive Loc where
  | cmd | cfg | txAddr | txOpc | txLen | timeoutLo | timeoutHi | status | faultCode | phase | faultPhase
  | rxAddr | rxLen | rxErr | rxCsum | rxCalc | rxCnt | txCsum
  | txBuf (i : Nat) | rxBuf (i : Nat) | reserved
  deriving DecidableEq, Repr

/-- The location at a host address (R72); every address not in the map is reserved (R80). -/
def locOf (a : HostAddr) : Loc :=
  match a.toNat with
  | 0x000 => .cmd
  | 0x001 => .cfg
  | 0x002 => .txAddr
  | 0x003 => .txOpc
  | 0x004 => .txLen
  | 0x005 => .timeoutLo
  | 0x006 => .timeoutHi
  | 0x008 => .status
  | 0x009 => .faultCode
  | 0x00A => .phase
  | 0x00B => .faultPhase
  | 0x00C => .rxAddr
  | 0x00D => .rxLen
  | 0x00E => .rxErr
  | 0x00F => .rxCsum
  | 0x010 => .rxCalc
  | 0x011 => .rxCnt
  | 0x012 => .txCsum
  | n =>
    if 0x100 ≤ n ∧ n ≤ 0x1FC then .txBuf (n - 0x100)
    else if 0x200 ≤ n ∧ n ≤ 0x2FC then .rxBuf (n - 0x200)
    else .reserved

/-- The host address of `TX_BUF[i]` (R40). -/
def txBufAddr (i : Nat) : Nat := 0x100 + i

/-- The host address of `RX_BUF[i]` (R41). -/
def rxBufAddr (i : Nat) : Nat := 0x200 + i

/-- The byte written last to a buffer address, if any was since power-up. -/
def Memory.lookup : Memory → Nat → Option Byte
  | [], _ => none
  | (k, v) :: m, a => if k = a then some v else Memory.lookup m a

/-- The byte at a buffer address: what was written last, or, where nothing was since power-up, a free value (I3;
log 3). -/
def Memory.byteAt (m : Memory) (a : Nat) : Byte := (Memory.lookup m a).getD (Config.unwrittenByte a)

/-- `TX_BUF[i]` (R40). -/
def State.txBuf (s : State) (i : Nat) : Byte := Memory.byteAt s.mem (txBufAddr i)

/-- `RX_BUF[i]` (R41). -/
def State.rxBuf (s : State) (i : Nat) : Byte := Memory.byteAt s.mem (rxBufAddr i)

/-- The payload of the next instruction frame, `TX_BUF[0..TX_LEN-1]` (R27). -/
def State.txPayload (s : State) : List Byte := (List.range s.txLen.toNat).map s.txBuf

/-- The payload bytes received, `RX_BUF[0..RX_CNT-1]` (R48, R200). -/
def State.rxPayload (s : State) : List Byte := (List.range s.rxCnt.toNat).map s.rxBuf

/-- `frame_checksum()` (R161). -/
def frameChecksum (s : State) : Byte :=
  ~~~ sum8 (s.txAddr :: (s.txLen + 2) :: s.txOpc :: s.txPayload)

/-- `frame_byte(i)` (R162), for `n = TX_LEN`; past the checksum it is undefined, a free value (log 8). -/
def frameByte (s : State) (i : Nat) : Byte :=
  if i = 0 ∨ i = 1 then Config.marker
  else if i = 2 then s.txAddr
  else if i = 3 then s.txLen + 2
  else if i = 4 then s.txOpc
  else if i ≤ 4 + s.txLen.toNat then s.txBuf (i - 5)
  else if i = 5 + s.txLen.toNat then s.txCsum
  else Config.undefinedFrameByte i

/-- The whole frame the TX fields make, `frame_byte(0)` to `frame_byte(n + 5)` (R100, R167). -/
def txFrame (s : State) : List Byte := (List.range (s.txLen.toNat + 6)).map (frameByte s)

/-- The TX_DATA output (R56). -/
def State.txData (s : State) : Byte := if s.txValid then frameByte s s.idx.toNat else 0x00

/-- The source's result `{ error_flags, payload }` of an exchange that ended without fault (R200). -/
def State.result (s : State) : Option (List ErrorFlag × List Byte) :=
  if s.done ∧ s.faultCode = .none then some (decodeErrorFlags s.rxErr, s.rxPayload) else none

/-- What a read of a location returns (R73 and each register's own rule); reserved bits read 0 (I12). -/
def readLoc (s : State) : Loc → Byte
  | .cmd => 0x00
  | .cfg => s.cfg.setWidth 8
  | .txAddr => s.txAddr
  | .txOpc => s.txOpc
  | .txLen => s.txLen
  | .timeoutLo => s.timeoutLo
  | .timeoutHi => s.timeoutHi
  | .status => s.status
  | .faultCode => s.faultCode.code.setWidth 8
  | .phase => s.phase.code.setWidth 8
  | .faultPhase => s.faultPhase.code.setWidth 8
  | .rxAddr => s.rxAddr
  | .rxLen => s.rxLen
  | .rxErr => s.rxErr
  | .rxCsum => s.rxCsum
  | .rxCalc => s.rxCalc
  | .rxCnt => s.rxCnt
  | .txCsum => s.txCsum
  | .txBuf i => s.txBuf i
  | .rxBuf i => s.rxBuf i
  | .reserved => 0x00

/-- `HostRead(a)` (R73). -/
def hostRead (s : State) (a : HostAddr) : Byte := readLoc s (locOf a)

end Sys2Proof.Machine
end

