-- ==== Sys2Proof/Machine/Ops.lean ====
section
/-! DEFINITION. The shared operations: writing the buffers, taking a fault or a completion (`complete`, R282) and the
return from one (`clearCompletion`, R135, R285), the rejection of a host write or command, and the block's reaction to
each bus event (R165, R191 to R199, R253, R256). -/

namespace Sys2Proof.Machine

/-! ### Memory -/

/-- Write one buffer byte, keeping the addresses strictly rising (log 2). -/
def Memory.write : Memory → Nat → Byte → Memory
  | [], a, v => [(a, v)]
  | (k, w) :: m, a, v =>
    if a < k then (a, v) :: (k, w) :: m
    else if a = k then (a, v) :: m
    else (k, w) :: Memory.write m a v

/-- The canonical form: the addresses strictly rise (log 2). -/
def Memory.wf : Memory → Bool
  | [] => true
  | [_] => true
  | (a, _) :: (b, w) :: m => decide (a < b) && Memory.wf ((b, w) :: m)

/-- The host addresses of the two buffers' bytes (R40, R41). -/
def isBufferAddr (a : Nat) : Bool := decide (0x100 ≤ a ∧ a ≤ 0x1FC ∨ 0x200 ≤ a ∧ a ≤ 0x2FC)

/-- `TX_BUF[i] <- v` (R74). -/
def setTxBuf (i : Nat) (v : Byte) (s : State) : State :=
  { s with mem := Memory.write s.mem (txBufAddr i) v }

/-- `RX_BUF[i] <- v` (R198). The buffer ends at index 252; a state in which the block asks for a later index is never
reached (R198; log 17). -/
def setRxBuf (i : Nat) (v : Byte) (s : State) : State :=
  if i < Config.maxPayload then { s with mem := Memory.write s.mem (rxBufAddr i) v } else s

/-! ### Completion, rejection and the return from a completion -/

/-- `complete(F, p)` (R282): the end of an exchange, with or without a fault. -/
def complete (f : FaultCode) (p : Phase) (s : State) : State :=
  { s with
    faultCode := f
    faultPhase := if f = .none then .idle else p
    deverr := false
    done := true
    abrt := false
    tmr := 0
    phase := .idle }

/-- `succeed()` (R200): DEVERR is set after the completion, from the whole error byte, bit 7 included (R232). -/
def succeed (s : State) : State :=
  { complete .none .idle s with deverr := decide (s.rxErr ≠ 0x00) }

/-- A rejected command or host write (R36, R133, R136 to R138). -/
def reject (s : State) : State := { s with rej := true }

/-- The effect of an accepted CLEAR (R135), the return from a completion (R285). -/
def clearCompletion (s : State) : State :=
  { s with done := false, deverr := false, rej := false, faultCode := .none, faultPhase := .idle }

/-! ### Bus events -/

/-- The event `TxAccept` (R165, R166): the UART takes the byte the block presents. Where an ABORT or a Reset of the same
cycle makes the event have no effect, the byte the UART took is recorded by `uartTakes` (log 20). -/
def onTxAccept (s : State) : State :=
  if s.phase = .tx then
    if s.idx.toNat = s.txLen.toNat + 5 then { s with sent := s.sent ++ [frameByte s s.idx.toNat], phase := .turn }
    else { s with sent := s.sent ++ [frameByte s s.idx.toNat], idx := s.idx + 1 }
  else s

/-- The event `TxIdle` (R253, R260). -/
def onTxIdle (s : State) : State :=
  if s.phase = .turn then
    if s.abrt then complete .aborted s.faultPhase s
    else if s.suppress then complete .none .idle s
    else { s with tmr := 0, acc := 0x00, m1 := 0x00, phase := .rxM1 }
  else s

/-- The event `Tick` (R256, R258): the test is on the incremented value. -/
def onTick (s : State) : State :=
  if s.phase.isRx then
    if s.timeout ≤ s.tmr + 1 then complete .timeout s.phase { s with tmr := s.tmr + 1 }
    else { s with tmr := s.tmr + 1 }
  else s

/-- The first marker byte (R191): no check yet. -/
def rxM1Byte (b : Byte) (s : State) : State :=
  { s with m1 := b, tmr := 0, phase := .rxM2 }

/-- The second marker byte and the marker check (R192): no hunting (R193). -/
def rxM2Byte (b : Byte) (s : State) : State :=
  if s.m1 = Config.marker ∧ b = Config.marker then { s with tmr := 0, phase := .rxAddr }
  else complete .framing .rxM2 s

/-- The address byte and the address check (R194). -/
def rxAddrByte (b : Byte) (s : State) : State :=
  if b ≠ s.txAddr then complete .addrMismatch .rxAddr { s with rxAddr := b, acc := b }
  else { s with rxAddr := b, acc := b, tmr := 0, phase := .rxLen }

/-- The length byte (R195). -/
def rxLenByte (b : Byte) (s : State) : State :=
  if b.toNat < 2 then complete .length .rxLen { s with rxLen := b, acc := s.acc + b }
  else { s with rxLen := b, acc := s.acc + b, tmr := 0, phase := .rxErr }

/-- The error byte (R196). -/
def rxErrByte (b : Byte) (s : State) : State :=
  { s with rxErr := b, acc := s.acc + b, tmr := 0, phase := if s.rxLen = 2 then .rxCsum else .rxPay }

/-- A payload byte (R198); the count is compared after its increment (log 17). -/
def rxPayByte (b : Byte) (s : State) : State :=
  { setRxBuf s.rxCnt.toNat b s with
    rxCnt := s.rxCnt + 1
    acc := s.acc + b
    tmr := 0
    phase := if (s.rxCnt + 1).toNat + 2 = s.rxLen.toNat then .rxCsum else .rxPay }

/-- The checksum byte and the checksum check (R199). -/
def rxCsumByte (b : Byte) (s : State) : State :=
  if b ≠ ~~~ s.acc then complete .checksum .rxCsum { s with rxCsum := b, rxCalc := ~~~ s.acc }
  else succeed { s with rxCsum := b, rxCalc := ~~~ s.acc }

/-- The event `RxByte(b)` (R190 to R199); outside the RX phases the byte is dropped (R254). -/
def onRxByte (b : Byte) (s : State) : State :=
  match s.phase with
  | .idle => s
  | .tx => s
  | .turn => s
  | .rxM1 => rxM1Byte b s
  | .rxM2 => rxM2Byte b s
  | .rxAddr => rxAddrByte b s
  | .rxLen => rxLenByte b s
  | .rxErr => rxErrByte b s
  | .rxPay => rxPayByte b s
  | .rxCsum => rxCsumByte b s

/-- The UART takes as many bytes as `bytes` has, a `TxAccept` each. -/
def takeBytes (bytes : List Byte) (s : State) : State := bytes.foldl (fun s _ => onTxAccept s) s

/-- The UART delivers bytes one after another, an `RxByte` each. -/
def deliverBytes (bytes : List Byte) (s : State) : State := bytes.foldl (fun s b => onRxByte b s) s

/-- The event `Reset` (R320): every piece of the block's state but the buffers takes its reset value. The wire's
record and what is still to come are outside the block. -/
def onReset (s : State) : State :=
  { State.reset with mem := s.mem, sent := s.sent, inputs := s.inputs }

end Sys2Proof.Machine
end

