-- ==== Sys2Proof/Machine/Cycles.lean ====
section
/-! DEFINITION. What a clock cycle adds around an instruction (R261, R262): taking the next input, the bus events in
their order, and a cycle of reset. -/

namespace Sys2Proof.Machine

/-- The state in which the reactions of an input run: the input is taken, and H_RDATA carries no data until a read
(R60; log 6). -/
def takeInput (rest : List Input) (s : State) : State := { s with inputs := rest, hRData := none }

/-- A cycle in which nothing happens: what a step is when the outside world has nothing more to do (log 1). -/
def idleCycle (s : State) : State := { s with hRData := none }

/-- An event that a cycle has when its input line is 1. -/
def ifLine (line : Bool) (event : State → State) (s : State) : State := if line then event s else s

/-- The `RxByte` of a cycle that has one. -/
def ifReceived (rx : Option Byte) (s : State) : State :=
  match rx with
  | some b => onRxByte b s
  | none => s

/-- The bus events of one cycle, in the order of R262 (3) to (6). -/
def busEvents (c : Cycle) (s : State) : State :=
  ifLine c.tick onTick (ifLine c.txIdle onTxIdle (ifLine c.txAck onTxAccept (ifReceived c.rx s)))

/-- Whether a cycle's host access is a read (R110). -/
def Cycle.reads (c : Cycle) : Bool :=
  match c.host.map decodeHost with
  | some (.ok (.hostRd _)) => true
  | _ => false

/-- A cycle with RST = 1 (R262 (1), R320): only the reset takes effect, and a read returns 0x00. -/
def resetCycle (c : Cycle) (s : State) : State :=
  { onReset s with hRData := if c.reads then some 0x00 else none }

/-- What the UART takes in a cycle (R264 (1)): a TX_ACK in a cycle with TX_VALID = 1 takes TX_DATA, both as the cycle
finds them (R261), even where an ABORT or a Reset of that cycle comes first (R262) and the event `TxAccept` then has no
effect on the block (R166, R320). `s` is the state the cycle begins in, `t` the one its events leave. In every other
case `onTxAccept` has recorded the same byte. DEDUCED, log 20. -/
def uartTakes (c : Cycle) (s t : State) : State :=
  if c.txAck && s.txValid then { t with sent := s.sent ++ [s.txData] } else t

/-- Run more events after an instruction that answered a next state. -/
def thenEvents (f : State → State) : Host.Outcome State Fault Refusal → Host.Outcome State Fault Refusal
  | .next s => .next (f s)
  | .fault r => .fault r
  | .refused r => .refused r

/-- A cycle with no event. -/
def Cycle.quiet : Cycle := ⟨false, none, none, false, false, false⟩

/-- The input that brings an instruction's code to the block: a host word alone in its cycle, or a whole frame. -/
def inputOfCode : Code → Input
  | .host w => .cycle { Cycle.quiet with host := some w }
  | .instrFrame bytes => .instrFrame bytes
  | .statusFrame bytes => .statusFrame bytes

/-- A state with the code of an instruction as its next input (log 1, log 16). -/
def withNextCode (code : Code) (s : State) : State := { s with inputs := inputOfCode code :: s.inputs }

end Sys2Proof.Machine
end

