-- ==== Sys2Proof/Machine/Commands.lean ====
section
/-! DEFINITION. The commands a host write to CMD carries: NOP, START, ABORT, CLEAR and the reserved ones
(40_commands.md). -/

namespace Sys2Proof.Machine

/-- What an accepted START clears before its check (R132): DONE, DEVERR, the fault record and the result registers,
but not REJ and not RX_BUF. -/
def clearResults (s : State) : State :=
  { s with
    done := false
    deverr := false
    faultCode := .none
    faultPhase := .idle
    rxAddr := 0x00
    rxLen := 0x00
    rxErr := 0x00
    rxCsum := 0x00
    rxCalc := 0x00
    rxCnt := 0x00 }

/-- `start_check()` (R131): the fault START ends with, if any, the address checked first. -/
def startCheck (s : State) : Option FaultCode :=
  if s.txAddr = Config.invalidAddr then some .invalidAddress
  else if Config.maxPayload < s.txLen.toNat then some .payloadTooLong
  else none

/-- The step from IDLE to TX of a START whose check passes (R132). -/
def beginTx (s : State) : State :=
  { s with txCsum := frameChecksum s, idx := 0, abrt := false, phase := .tx }

/-- START (R132, R133). -/
def startCommand (s : State) : State :=
  if s.phase = .idle then
    match startCheck s with
    | some f => complete f .idle (clearResults s)
    | none => beginTx (clearResults s)
  else reject s

/-- ABORT (R134). -/
def abortCommand (s : State) : State :=
  match s.phase with
  | .idle => s
  | .tx => { s with abrt := true, faultPhase := .tx, phase := .turn }
  | .turn => if s.abrt then s else { s with abrt := true, faultPhase := .turn }
  | p => complete .aborted p s

/-- CLEAR (R135, R136). -/
def clearCommand (s : State) : State :=
  if s.phase = .idle then clearCompletion s else reject s

/-- Command dispatch (R130), on the whole data byte. -/
def issueCommand (d : Byte) (s : State) : State :=
  if d = 0x01 then startCommand s
  else if d = 0x02 then abortCommand s
  else if d = 0x03 then clearCommand s
  else if d = 0x00 then s
  else reject s

/-- NOP (R137): no effect in any phase. -/
def execNop (s : State) : Host.Outcome State Fault Refusal := .next s

/-- START (R131 to R133). -/
def execStart (s : State) : Host.Outcome State Fault Refusal := .next (startCommand s)

/-- ABORT (R134). -/
def execAbort (s : State) : Host.Outcome State Fault Refusal := .next (abortCommand s)

/-- CLEAR (R135, R136). -/
def execClear (s : State) : Host.Outcome State Fault Refusal := .next (clearCommand s)

/-- A write of `d` to CMD as a reserved command (R137), by the dispatch of R130. -/
def execCmdRsvd (d : Byte) (s : State) : Host.Outcome State Fault Refusal := .next (issueCommand d s)

end Sys2Proof.Machine
end

