-- ==== Sys2Proof/Machine/HostAccess.lean ====
section
/-! DEFINITION. Host reads and writes: HOST_RD and HOST_WR (20_memory.md R73, R74). -/

namespace Sys2Proof.Machine

/-- A write of `d` to a writable location, or rejected while the block is busy (R74, R138). -/
def writeRw (f : State → State) (s : State) : State := if s.phase = .idle then f s else reject s

/-- `HostWrite` at a location (R74): a command, a writable register or TX_BUF byte, or nothing for a read-only or
reserved one (R80). -/
def writeLoc (l : Loc) (d : Byte) (s : State) : State :=
  match l with
  | .cmd => issueCommand d s
  | .cfg => writeRw (fun s => { s with cfg := d.extractLsb' 0 2 }) s
  | .txAddr => writeRw (fun s => { s with txAddr := d }) s
  | .txOpc => writeRw (fun s => { s with txOpc := d }) s
  | .txLen => writeRw (fun s => { s with txLen := d }) s
  | .timeoutLo => writeRw (fun s => { s with timeoutLo := d }) s
  | .timeoutHi => writeRw (fun s => { s with timeoutHi := d }) s
  | .txBuf i => writeRw (setTxBuf i d) s
  | .status => s
  | .faultCode => s
  | .phase => s
  | .faultPhase => s
  | .rxAddr => s
  | .rxLen => s
  | .rxErr => s
  | .rxCsum => s
  | .rxCalc => s
  | .rxCnt => s
  | .txCsum => s
  | .rxBuf _ => s
  | .reserved => s

/-- `HostWrite(a, v)` (R74). -/
def hostWrite (a : HostAddr) (d : Byte) (s : State) : State := writeLoc (locOf a) d s

/-- HOST_WR (R74). -/
def execHostWr (a : HostAddr) (d : Byte) (s : State) : Host.Outcome State Fault Refusal := .next (hostWrite a d s)

/-- HOST_RD (R73): the byte appears on H_RDATA (R60); "a read changes no state". -/
def execHostRd (a : HostAddr) (s : State) : Host.Outcome State Fault Refusal :=
  .next { s with hRData := some (hostRead s a) }

end Sys2Proof.Machine
end

