-- ==== Sys2Proof/Machine/InstrFrames.lean ====
section
/-! DEFINITION. Instruction frames on the wire: INSTR_FRAME and the device opcodes (41_encode.md, R107). As an
instruction such a frame is what the UART takes from the block, a `TxAccept` for each of its bytes (log 10). The block
does not interpret the opcode (R107, R160), so all six share `takeFrame`. -/

namespace Sys2Proof.Machine

/-- The UART takes frame `f` from the block (R160, R165, R167). A block in TX can only send the frame its TX fields
make: any other frame is not sent, and nothing happens. Outside TX a `TxAccept` has no effect (R166). Log 10. -/
def takeFrame (f : Frame) (s : State) : State :=
  if s.phase = .tx ∧ txFrame s ≠ f.bytes then s else takeBytes f.bytes s

/-- INSTR_FRAME (R160 to R167). -/
def execInstrFrame (f : Frame) (s : State) : Host.Outcome State Fault Refusal := .next (takeFrame f s)

/-- PING (R107). -/
def execPing (addr len : Byte) (body : List Byte) (s : State) : Host.Outcome State Fault Refusal :=
  .next (takeFrame ⟨addr, len, Config.opcPing, body⟩ s)

/-- READ (R107). -/
def execRead (addr len : Byte) (body : List Byte) (s : State) : Host.Outcome State Fault Refusal :=
  .next (takeFrame ⟨addr, len, Config.tableRead, body⟩ s)

/-- WRITE (R107). -/
def execWrite (addr len : Byte) (body : List Byte) (s : State) : Host.Outcome State Fault Refusal :=
  .next (takeFrame ⟨addr, len, Config.tableWrite, body⟩ s)

/-- RESET (R107): the block sends it like any other frame; it resets the device, not the block. -/
def execReset (addr len : Byte) (body : List Byte) (s : State) : Host.Outcome State Fault Refusal :=
  .next (takeFrame ⟨addr, len, Config.tableReset, body⟩ s)

/-- SYNC_WRITE (R107, R108): its payload is opaque to the block. -/
def execSyncWrite (addr len : Byte) (body : List Byte) (s : State) : Host.Outcome State Fault Refusal :=
  .next (takeFrame ⟨addr, len, Config.tableSyncWrite, body⟩ s)

end Sys2Proof.Machine
end

