-- ==== Sys2Proof/Machine/StatusFrames.lean ====
section
/-! DEFINITION. Status frames on the wire (42_decode.md): STATUS_FRAME, the pure form of the decoder (R204), and the
source's pure encoder (R160). -/

namespace Sys2Proof.Machine

/-- STATUS_FRAME: the UART delivers the frame's bytes, each handled by the rule of the phase it finds (R190 to R200,
R204), with no tick between them (log 11). -/
def execStatusFrame (f : Frame) (s : State) : Host.Outcome State Fault Refusal := .next (deliverBytes f.bytes s)

/-- The bytes of `encode_instruction(address, opcode, payload)` (R100, R160), from its arguments alone. -/
def encodeInstruction (addr opc : Byte) (payload : List Byte) : List Byte :=
  let len : Byte := BitVec.ofNat 8 (payload.length + 2)
  [Config.marker, Config.marker, addr, len, opc] ++ payload ++ [~~~ sum8 ([addr, len, opc] ++ payload)]

/-- How `decode(a, r)` ends (R204): a fault after so many bytes, a success, or more bytes needed. -/
inductive DecodeEnd where
  | fault (code : FaultCode) (after : Nat)
  | ok (err : Byte) (payload : List Byte) (after : Nat)
  | needMore
  deriving DecidableEq, Repr

/-- `decode(a, r)` (R204), the whole decoder as a function of the received bytes. `needMore` is a sequence "that stops
before the byte a line needs". -/
def decodeStatus (a : Byte) (r : List Byte) : DecodeEnd :=
  if r.length < 2 then .needMore
  else if ¬ (r.getD 0 0 = Config.marker ∧ r.getD 1 0 = Config.marker) then .fault .framing 2
  else if r.length < 3 then .needMore
  else if r.getD 2 0 ≠ a then .fault .addrMismatch 3
  else if r.length < 4 then .needMore
  else if (r.getD 3 0).toNat < 2 then .fault .length 4
  else if r.length < (r.getD 3 0).toNat + 4 then .needMore
  else if r.getD ((r.getD 3 0).toNat + 3) 0 ≠
      ~~~ sum8 (r.getD 2 0 :: r.getD 3 0 :: r.getD 4 0 :: (r.drop 5).take ((r.getD 3 0).toNat - 2)) then
    .fault .checksum ((r.getD 3 0).toNat + 4)
  else .ok (r.getD 4 0) ((r.drop 5).take ((r.getD 3 0).toNat - 2)) ((r.getD 3 0).toNat + 4)

end Sys2Proof.Machine
end

