-- ==== Sys2Proof/Machine/Dispatch.lean ====
section
/-! DEFINITION. From an instruction to its meaning, one arm per constructor. -/

namespace Sys2Proof.Machine

def exec (i : Instr) (s : State) : Host.Outcome State Fault Refusal :=
  match i with
  | .nop => Sys2Proof.Machine.execNop s
  | .start => Sys2Proof.Machine.execStart s
  | .abort => Sys2Proof.Machine.execAbort s
  | .clear => Sys2Proof.Machine.execClear s
  | .cmdRsvd d => Sys2Proof.Machine.execCmdRsvd d s
  | .hostWr a d => Sys2Proof.Machine.execHostWr a d s
  | .hostRd a => Sys2Proof.Machine.execHostRd a s
  | .instrFrame f => Sys2Proof.Machine.execInstrFrame f s
  | .statusFrame f => Sys2Proof.Machine.execStatusFrame f s
  | .ping addr len body => Sys2Proof.Machine.execPing addr len body s
  | .read addr len body => Sys2Proof.Machine.execRead addr len body s
  | .write addr len body => Sys2Proof.Machine.execWrite addr len body s
  | .reset addr len body => Sys2Proof.Machine.execReset addr len body s
  | .syncWrite addr len body => Sys2Proof.Machine.execSyncWrite addr len body s

end Sys2Proof.Machine
end

