-- ==== Sys2Proof/Machine/Pseudo.lean ====
section
/-! DEFINITION. The pseudo-instructions and their expansions (R115). `wait_done`, a loop, is in HostLoop.lean. -/

namespace Sys2Proof.Machine

/-- `nop` (R115). -/
def pseudoNop : List Instr := [.nop]

/-- `start` (R115). -/
def pseudoStart : List Instr := [.start]

/-- `abort` (R115). -/
def pseudoAbort : List Instr := [.abort]

/-- `clear` (R115). -/
def pseudoClear : List Instr := [.clear]

/-- `settimeout t` (R115): the low byte first. -/
def pseudoSetTimeout (t : BitVec 16) : List Instr :=
  [.hostWr 0x005 (t.extractLsb' 0 8), .hostWr 0x006 (t.extractLsb' 8 8)]

/-- The TX_BUF writes of `load_tx`, from index `i` on. -/
def pseudoLoadBuf : Nat → List Byte → List Instr
  | _, [] => []
  | i, p :: ps => .hostWr (BitVec.ofNat 10 (0x100 + i)) p :: pseudoLoadBuf (i + 1) ps

/-- `load_tx a, o, p0, ..., p(n-1)` (R115). -/
def pseudoLoadTx (a o : Byte) (ps : List Byte) : List Instr :=
  .hostWr 0x002 a :: .hostWr 0x003 o :: .hostWr 0x004 (BitVec.ofNat 8 ps.length) :: pseudoLoadBuf 0 ps

/-- The device opcodes of R107. -/
inductive DeviceOp where
  | ping | readRegister | writeRegister | resetToDefaults | syncWrite
  deriving DecidableEq, Repr

/-- The opcode byte a host program sends for a device operation (R107): four of the five are OPEN parameters (log 13). -/
def DeviceOp.opcode : DeviceOp → Byte
  | .ping => Config.opcPing
  | .readRegister => Config.opcRead
  | .writeRegister => Config.opcWrite
  | .resetToDefaults => Config.opcReset
  | .syncWrite => Config.opcSyncWrite

/-- A host program's request for a device operation (R107, R323 (5), (6)): load the frame's fields, then START. -/
def pseudoRequest (a : Byte) (op : DeviceOp) (ps : List Byte) : List Instr :=
  pseudoLoadTx a op.opcode ps ++ pseudoStart

end Sys2Proof.Machine
end

