-- ==== Sys2Proof/Machine/Step.lean ====
section
/-! DEFINITION. One step: the next input is taken, its instruction decoded and run, and the cycle's bus events follow
(R261, R262; log 1). -/

namespace Sys2Proof.Machine

/-- Decode a code and run the instruction; a code that spells none is refused (R110, I14). -/
def runCode (code : Code) (s : State) : Host.Outcome State Fault Refusal :=
  match decode code with
  | .ok i => exec i s
  | .error e => .refused (.undecodable e)

/-- The events of one cycle, in the order of R262. -/
def runCycle (c : Cycle) (s : State) : Host.Outcome State Fault Refusal :=
  if c.rst then .next (resetCycle c s)
  else match c.host with
    | some w => thenEvents (busEvents c) (runCode (.host w) s)
    | none => .next (busEvents c s)

/-- The reactions to one input. -/
def runInput (i : Input) (s : State) : Host.Outcome State Fault Refusal :=
  match i with
  | .cycle c => thenEvents (uartTakes c s) (runCycle c s)
  | .instrFrame bytes => runCode (.instrFrame bytes) s
  | .statusFrame bytes => runCode (.statusFrame bytes) s

/-- One step of the machine. -/
def step (s : State) : Host.Outcome State Fault Refusal :=
  match s.inputs with
  | [] => .next (idleCycle s)
  | i :: rest => runInput i (takeInput rest s)

/-- `s` with a table-numbered word as the very next input (log 1, log 16). -/
def State.withFetchWord (s : State) (nbits w : Nat) : State := withNextCode (tableCode nbits w) s

end Sys2Proof.Machine
end

