-- ==== Sys2Proof/Laws/Encoding.lean ====
section
/-! SUPPORT. The bits and fields of a host word, and a masked comparison field by field. -/

namespace Sys2Proof

/-- The bits of a host word, by field (R110). -/
theorem encodeHost_getLsbD (w : Bool) (a : HostAddr) (d : Byte) (i : Nat) :
    (encodeHost w a d).getLsbD i =
      if i < 8 then d.getLsbD i else if i < 18 then a.getLsbD (i - 8) else if i < 19 then false
      else if i = 19 then w else false := by
  have h : (encodeHost w a d).getLsbD i = ((BitVec.ofBool w ++ 0#1 ++ a ++ d : BitVec (1 + 1 + 10 + 8))).getLsbD i := rfl
  rw [h, BitVec.getLsbD_append, BitVec.getLsbD_append, BitVec.getLsbD_append]
  by_cases h1 : i < 8
  · simp [h1]
  by_cases h2 : i < 18
  · have : i - 8 < 10 := by omega
    simp [h1, h2, this]
  by_cases h3 : i < 19
  · have h4 : ¬ i - 8 < 10 := by omega
    have h5 : i - 8 - 10 = 0 := by omega
    simp [h1, h2, h3, h4, h5]
  by_cases h6 : i = 19
  · subst h6; simp
  · have h4 : ¬ i - 8 < 10 := by omega
    have h5 : ¬ i - 8 - 10 = 0 := by omega
    have h7 : ¬ i - 8 - 10 - 1 = 0 := by omega
    simp [h1, h2, h3, h4, h5, h6, h7, BitVec.getLsbD_ofBool]

@[simp] theorem encodeHost_bit18 (w : Bool) (a : HostAddr) (d : Byte) : (encodeHost w a d).getLsbD 18 = false := by
  simp only [encodeHost_getLsbD]; simp

@[simp] theorem encodeHost_isWrite (w : Bool) (a : HostAddr) (d : Byte) :
    HostWord.isWrite (encodeHost w a d) = w := by
  simp only [HostWord.isWrite, encodeHost_getLsbD]; simp

@[simp] theorem encodeHost_addr (w : Bool) (a : HostAddr) (d : Byte) : HostWord.addr (encodeHost w a d) = a := by
  apply BitVec.eq_of_getLsbD_eq
  intro i hi
  have h1 : ¬ 8 + i < 8 := by omega
  have h2 : 8 + i < 18 := by omega
  have h3 : 8 + i - 8 = i := by omega
  rw [HostWord.addr, BitVec.getLsbD_extractLsb', encodeHost_getLsbD]
  simp [h2, hi]

@[simp] theorem encodeHost_data (w : Bool) (a : HostAddr) (d : Byte) : HostWord.data (encodeHost w a d) = d := by
  apply BitVec.eq_of_getLsbD_eq
  intro i hi
  rw [HostWord.data, BitVec.getLsbD_extractLsb', encodeHost_getLsbD]
  simp [hi]

/-- A word with bit 18 clear is made of its fields. -/
theorem encodeHost_fields {w : HostWord} (h : w.getLsbD 18 = false) :
    encodeHost w.isWrite w.addr w.data = w := by
  apply BitVec.eq_of_getLsbD_eq
  intro i hi
  rw [encodeHost_getLsbD]
  split
  · next h1 => rw [HostWord.data, BitVec.getLsbD_extractLsb']; simp [h1]
  · split
    · next h1 h2 =>
      have h3 : i - 8 < 10 := by omega
      have h4 : 8 + (i - 8) = i := by omega
      rw [HostWord.addr, BitVec.getLsbD_extractLsb']; simp [h3, h4]
    · split
      · have : i = 18 := by omega
        subst this; exact h.symm
      · have : i = 19 := by omega
        subst this; simp [HostWord.isWrite]

theorem encodeHost_inj {w w' : Bool} {a a' : HostAddr} {d d' : Byte}
    (h : encodeHost w a d = encodeHost w' a' d') : w = w' ∧ a = a' ∧ d = d' := by
  refine ⟨?_, ?_, ?_⟩
  · have := congrArg HostWord.isWrite h; rwa [encodeHost_isWrite, encodeHost_isWrite] at this
  · have := congrArg HostWord.addr h; rwa [encodeHost_addr, encodeHost_addr] at this
  · have := congrArg HostWord.data h; rwa [encodeHost_data, encodeHost_data] at this

theorem encodeHost_eq_iff {w w' : Bool} {a a' : HostAddr} {d d' : Byte} :
    encodeHost w a d = encodeHost w' a' d' ↔ w = w' ∧ a = a' ∧ d = d' :=
  ⟨encodeHost_inj, by rintro ⟨rfl, rfl, rfl⟩; rfl⟩

/-- Masking works field by field. -/
theorem encodeHost_and (w w' : Bool) (a a' : HostAddr) (d d' : Byte) :
    encodeHost w a d &&& encodeHost w' a' d' = encodeHost (w && w') (a &&& a') (d &&& d') := by
  apply BitVec.eq_of_getLsbD_eq
  intro i hi
  simp only [BitVec.getLsbD_and, encodeHost_getLsbD]
  split
  · rfl
  · split
    · rfl
    · split
      · rfl
      · split <;> simp

/-- Bit 18 of a word that has it clear survives no mask of the table. -/
theorem encodeHost_and_bit18 (w : Bool) (a : HostAddr) (d : Byte) : encodeHost w a d &&& 0x40000#20 = 0#20 := by
  have hb : ∀ j : Fin 20, j.val ≠ 18 → (0x40000#20).getLsbD j.val = false := by decide
  apply BitVec.eq_of_getLsbD_eq
  intro i hi
  rw [BitVec.getLsbD_and, BitVec.getLsbD_zero]
  by_cases h : i = 18
  · subst h; rw [encodeHost_bit18]; rfl
  · rw [hb ⟨i, hi⟩ h, Bool.and_false]

/-- Whether a row of the table matches a host word, field by field. `mask` is the row's mask, which may or may not
also cover bit 18. -/
theorem hostRow_match {mw bw : Bool} {ma ba : HostAddr} {md bd : Byte} {mask bits : HostWord}
    (hm : mask = encodeHost mw ma md ||| 0x40000#20) (hb : bits = encodeHost bw ba bd) (w : Bool) (a : HostAddr)
    (d : Byte) : (encodeHost w a d &&& mask == bits) = decide ((w && mw) = bw ∧ a &&& ma = ba ∧ d &&& md = bd) := by
  rw [hm, hb, BitVec.and_or_distrib_left, encodeHost_and_bit18, BitVec.or_zero, encodeHost_and]
  by_cases h : (w && mw) = bw ∧ a &&& ma = ba ∧ d &&& md = bd
  · simp [h]
  · rw [decide_eq_false h]
    exact beq_eq_false_iff_ne.2 fun he => h (encodeHost_inj he)

/-- A command's row (R111). -/
theorem firstHostRow_command : ∀ d : Byte, firstHostRow (encodeHost true 0 d) = some (decodeCommand d).mnemonic := by
  decide

/-- A row that covers all of A and whose A is 0 matches no other address. -/
theorem hostRow_other {md bd : Byte} {mask bits : HostWord} (hm : mask = encodeHost true 0x3FF md ||| 0x40000#20)
    (hb : bits = encodeHost true 0 bd) (w : Bool) {a : HostAddr} (ha : w = false ∨ a ≠ 0) (d : Byte) :
    (encodeHost w a d &&& mask == bits) = false := by
  rw [hostRow_match hm hb, decide_eq_false]
  rintro ⟨hw, h, -⟩
  rcases ha with ha | ha
  · simp [ha] at hw
  · exact ha (by rwa [show (0x3FF : HostAddr) = BitVec.allOnes 10 from rfl, BitVec.and_allOnes] at h)

/-- The rows of the commands match no write elsewhere and no read. -/
theorem firstHostRow_other (w : Bool) {a : HostAddr} (ha : w = false ∨ a ≠ 0) (d : Byte) :
    firstHostRow (encodeHost w a d) =
      if w then some "HOST_WR" else if d = 0 then some "HOST_RD" else none := by
  have h1 := hostRow_other (mask := 0xFFFFF) (bits := 0x80000) (md := 0xFF) (bd := 0) (by decide) (by decide) w ha d
  have h2 := hostRow_other (mask := 0xFFFFF) (bits := 0x80001) (md := 0xFF) (bd := 1) (by decide) (by decide) w ha d
  have h3 := hostRow_other (mask := 0xFFFFF) (bits := 0x80002) (md := 0xFF) (bd := 2) (by decide) (by decide) w ha d
  have h4 := hostRow_other (mask := 0xFFFFF) (bits := 0x80003) (md := 0xFF) (bd := 3) (by decide) (by decide) w ha d
  have h5 := hostRow_other (mask := 0xFFFFC) (bits := 0x80004) (md := 0xFC) (bd := 0x04) (by decide) (by decide) w ha d
  have h6 := hostRow_other (mask := 0xFFFF8) (bits := 0x80008) (md := 0xF8) (bd := 0x08) (by decide) (by decide) w ha d
  have h7 := hostRow_other (mask := 0xFFFF0) (bits := 0x80010) (md := 0xF0) (bd := 0x10) (by decide) (by decide) w ha d
  have h8 := hostRow_other (mask := 0xFFFE0) (bits := 0x80020) (md := 0xE0) (bd := 0x20) (by decide) (by decide) w ha d
  have h9 := hostRow_other (mask := 0xFFFC0) (bits := 0x80040) (md := 0xC0) (bd := 0x40) (by decide) (by decide) w ha d
  have h10 := hostRow_other (mask := 0xFFF80) (bits := 0x80080) (md := 0x80) (bd := 0x80) (by decide) (by decide) w ha d
  have h11 := hostRow_match (mask := 0xC0000) (bits := 0x80000) (mw := true) (bw := true) (ma := 0) (ba := 0) (md := 0)
    (bd := 0) (by decide) (by decide) w a d
  have h12 := hostRow_match (mask := 0xC00FF) (bits := 0x00000) (mw := true) (bw := false) (ma := 0) (ba := 0)
    (md := 0xFF) (bd := 0) (by decide) (by decide) w a d
  have hd : d &&& 0xFF = d := by rw [show (0xFF : Byte) = BitVec.allOnes 8 from rfl, BitVec.and_allOnes]
  rw [hd] at h12
  simp only [firstHostRow, hostRows, List.find?_cons, h1, h2, h3, h4, h5, h6, h7, h8, h9, h10, h11, h12]
  cases w <;> by_cases h : d = 0#8 <;> simp [h]

end Sys2Proof
end

