-- ==== Sys2Proof/Laws/PerInstr.lean ====
section
/-! SUPPORT. Laws stated per instruction. `InTable`: the code of a well-formed instruction is matched in the opcode
table by a row of that instruction's own mnemonic, and by no earlier one (R116). -/

namespace Sys2Proof.Laws

/-- The first row of the opcode table that matches the encoding of a well-formed instruction bears its mnemonic. -/
def InTable.Statement (i : Instr) : Prop := i.wf = true → tableMnemonic (encode i) = some i.mnemonic

theorem InTable.nop : InTable.Statement .nop := fun _ => firstHostRow_command 0x00

theorem InTable.start : InTable.Statement .start := fun _ => firstHostRow_command 0x01

theorem InTable.abort : InTable.Statement .abort := fun _ => firstHostRow_command 0x02

theorem InTable.clear : InTable.Statement .clear := fun _ => firstHostRow_command 0x03

theorem InTable.cmdRsvd (d : Byte) : InTable.Statement (.cmdRsvd d) := fun h => by
  have hd : ∀ d : Byte, 4 ≤ d.toNat → decodeCommand d = .cmdRsvd d := by decide
  have hm := firstHostRow_command d
  rwa [hd d (of_decide_eq_true h)] at hm

theorem InTable.hostWr (a : HostAddr) (d : Byte) : InTable.Statement (.hostWr a d) :=
  fun h => firstHostRow_other true (.inr (of_decide_eq_true h)) d

theorem InTable.hostRd (a : HostAddr) : InTable.Statement (.hostRd a) :=
  fun _ => firstHostRow_other false (.inl rfl) 0x00

theorem InTable.instrFrame (f : Frame) : InTable.Statement (.instrFrame f) := fun h => by
  have hc : f.code ∉ Config.namedOpcodes := (of_decide_eq_true h).2
  simp only [Config.namedOpcodes, Config.opcPing, Config.tableRead, Config.tableWrite, Config.tableReset,
    Config.tableSyncWrite, List.mem_cons, List.not_mem_nil, or_false, not_or] at hc
  obtain ⟨h1, h2, h3, h6, h83⟩ := hc
  have ne {c : Byte} (h : ¬ f.code = c) : (c == f.code) = false := beq_eq_false_iff_ne.2 (Ne.symm h)
  change (List.find? _ instrRows).map _ = _
  simp only [instrRows, List.find?_cons, matchesFixed, Frame.bytes, ne h1, ne h2, ne h3, ne h6, ne h83]
  rfl

theorem InTable.statusFrame (f : Frame) : InTable.Statement (.statusFrame f) := fun _ => rfl

theorem InTable.ping (addr len : Byte) (body : List Byte) : InTable.Statement (.ping addr len body) := fun _ => rfl

theorem InTable.read (addr len : Byte) (body : List Byte) : InTable.Statement (.read addr len body) := fun _ => rfl

theorem InTable.write (addr len : Byte) (body : List Byte) : InTable.Statement (.write addr len body) := fun _ => rfl

theorem InTable.reset (addr len : Byte) (body : List Byte) : InTable.Statement (.reset addr len body) := fun _ => rfl

theorem InTable.syncWrite (addr len : Byte) (body : List Byte) : InTable.Statement (.syncWrite addr len body) :=
  fun _ => rfl

end Sys2Proof.Laws
end

