-- ==== Sys2Proof/Machine/HostLoop.lean ====
section
/-! DEFINITION. The pseudo-instruction `wait_done` (R115): a host loop over steps, since the block and the bus go on
between its polls. -/

namespace Sys2Proof.Machine

/-- One step on an input that comes next. -/
def stepOn (i : Input) (s : State) : Host.Outcome State Fault Refusal := step { s with inputs := i :: s.inputs }

/-- Steps on one input after another, stopping at the first that does not answer a next state. -/
def stepAll : List Input → State → Host.Outcome State Fault Refusal
  | [], s => .next s
  | i :: is, s =>
    match stepOn i s with
    | .next t => stepAll is t
    | .fault r => .fault r
    | .refused r => .refused r

/-- One turn of `wait_done`: what happens `before` the poll, and what the other ports carry in the poll's `cycle`. The
host's access in that cycle is the poll. -/
structure Poll where
  before : List Input
  cycle  : Cycle
  deriving DecidableEq, Repr

/-- The inputs of a poll: `rd STATUS` is the host access of its cycle (R115). -/
def Poll.inputs (p : Poll) : List Input :=
  p.before ++ [.cycle { p.cycle with host := some (encodeHost false 0x008 0x00) }]

/-- The exit test of `wait_done` (R115): bit 1 of the byte just read, STATUS.DONE (R31). -/
def State.readDone (s : State) : Bool := s.hRData.any fun b => b.getLsbD 1

/-- `wait_done` (R115): "repeat `rd STATUS` until bit 1 is 1 (a host loop; the host bounds it)". The polls' number is the
host's bound (R337; log 22). `true`: a poll read DONE = 1, and no later one was made; `false`: the bound came first. -/
def pseudoWaitDone : List Poll → State → Host.Outcome (Bool × State) Fault Refusal
  | [], s => .next (false, s)
  | p :: ps, s =>
    match stepAll p.inputs s with
    | .next t => if t.readDone then .next (true, t) else pseudoWaitDone ps t
    | .fault r => .fault r
    | .refused r => .refused r

end Sys2Proof.Machine
end

