-- ==== Sys2Proof/Safety.lean ====
section
/-! DEFINITION. What the claims call a good state and a good input: the invariants of R59, the stronger invariant a
step keeps, the states a run can reach, and the inputs a step does not refuse. -/

namespace Sys2Proof.Machine

/-- R59 (2) to (8), one field a clause. (1) and (9) hold by the types and by R32; (10) is about a step
(`SettingsFrozen`). -/
structure PhaseInv (s : State) : Prop where
  done_idle   : s.done = true → s.phase = .idle
  abrt_turn   : s.abrt = true → s.phase = .turn
  tx_bounds   : s.phase = .tx → s.idx.toNat ≤ s.txLen.toNat + 5 ∧ s.txLen.toNat ≤ 253 ∧ s.txAddr.toNat ≤ 0xFE
  rx_timer    : s.phase.isRx = true → s.tmr.toNat < max s.timeout.toNat 1
  pay_count   : s.phase = .rxPay → 3 ≤ s.rxLen.toNat ∧ s.rxCnt.toNat < s.rxLen.toNat - 2
  csum_count  : s.phase = .rxCsum → s.rxCnt.toNat = s.rxLen.toNat - 2
  deverr_done : s.deverr = true → s.faultCode.code = 0 ∧ s.done = true

/-- What else a run keeps, so that `PhaseInv` is kept by every step and the results mean what R202 says: the buffers'
canonical form; the fault record while busy (R38, R42); the checksum held for the frame being sent (R161); and what
each RX phase has received so far (R43 to R48, R51, R202). -/
structure Invariant (s : State) : Prop extends PhaseInv s where
  mem_wf      : Memory.wf s.mem = true
  mem_buffers : ∀ c ∈ s.mem, isBufferAddr c.1 = true
  busy_none   : s.phase ≠ .idle → s.faultCode = .none
  busy_phase  : s.phase ≠ .idle → s.abrt = false → s.faultPhase = .idle
  abrt_phase  : s.abrt = true → s.faultPhase.isTx = true
  tx_csum     : s.phase = .tx → s.txCsum = frameChecksum s
  csum_length : s.phase = .rxErr ∨ s.phase = .rxCsum → 2 ≤ s.rxLen.toNat
  cnt_zero    : s.phase ≠ .idle → s.phase.code.toNat ≤ 7 → s.rxCnt = 0
  addr_zero   : s.phase ≠ .idle → s.phase.code.toNat ≤ 5 → s.rxAddr = 0
  len_zero    : s.phase ≠ .idle → s.phase.code.toNat ≤ 6 → s.rxLen = 0
  err_zero    : s.phase ≠ .idle → s.phase.code.toNat ≤ 7 → s.rxErr = 0
  csum_zero   : s.phase ≠ .idle → s.rxCsum = 0 ∧ s.rxCalc = 0
  addr_match  : 6 ≤ s.phase.code.toNat → s.rxAddr = s.txAddr
  acc_len     : s.phase = .rxLen → s.acc = sum8 [s.rxAddr]
  acc_err     : s.phase = .rxErr → s.acc = sum8 [s.rxAddr, s.rxLen]
  acc_pay     : s.phase = .rxPay ∨ s.phase = .rxCsum → s.acc = sum8 (s.rxAddr :: s.rxLen :: s.rxErr :: s.rxPayload)

/-- The settings and the instruction frame's fields are the same in two states (R59 (10), R138): CFG, TX_ADDR, TX_OPC,
TX_LEN, TIMEOUT and every byte of TX_BUF. -/
def SettingsFrozen (s t : State) : Prop :=
  t.cfg = s.cfg ∧ t.txAddr = s.txAddr ∧ t.txOpc = s.txOpc ∧ t.txLen = s.txLen ∧ t.timeoutLo = s.timeoutLo ∧
    t.timeoutHi = s.timeoutHi ∧ ∀ i, i < 253 → t.txBuf i = s.txBuf i

/-- The states runs reach: from reset (R322), with anything to come, step by step. -/
inductive Reachable : State → Prop where
  | reset (ins : List Input) : Reachable { State.reset with inputs := ins }
  | step {s t : State} : Reachable s → step s = .next t → Reachable t

/-- The inputs that spell what a step can run: any cycle of reset, a cycle whose host word, if any, is a transaction
(R110), and a run of bytes that is a frame. -/
def Input.spells : Input → Bool
  | .cycle c => c.rst || !(c.host.any fun w => w.getLsbD 18)
  | .instrFrame bytes => (decode (.instrFrame bytes)).isOk
  | .statusFrame bytes => (decode (.statusFrame bytes)).isOk

/-- Run instructions one after another, stopping at the first that does not answer a next state. -/
def execAll : List Instr → State → Host.Outcome State Fault Refusal
  | [], s => .next s
  | i :: is, s =>
    match exec i s with
    | .next t => execAll is t
    | .fault r => .fault r
    | .refused r => .refused r

/-- The instruction frame the TX fields of a state make (R100), as a frame. -/
def sentFrameOf (s : State) : Frame :=
  ⟨s.txAddr, s.txLen + 2, s.txOpc, s.txPayload ++ [frameChecksum s]⟩

/-- The result registers as START leaves them: nothing received (R132, R202). -/
def NothingReceived (t : State) : Prop :=
  t.rxAddr = 0 ∧ t.rxLen = 0 ∧ t.rxErr = 0 ∧ t.rxCnt = 0 ∧ t.rxCsum = 0 ∧ t.rxCalc = 0 ∧ t.deverr = false

/-- What a TIMEOUT or an ABORTED in phase `p` leaves of an exchange that stood at `s` (R202): each field kept if `p`
is past its own phase and still 0 otherwise, and the payload bytes stored so far. -/
def KeptUpTo (p : Phase) (s t : State) : Prop :=
  t.rxAddr = (if 5 < p.code.toNat then s.rxAddr else 0) ∧ t.rxLen = (if 6 < p.code.toNat then s.rxLen else 0) ∧
    t.rxErr = (if 7 < p.code.toNat then s.rxErr else 0) ∧ t.rxCnt = s.rxCnt ∧ t.rxPayload = s.rxPayload ∧
    t.rxCsum = 0 ∧ t.rxCalc = 0 ∧ t.deverr = false

/-- Everything an exchange's reception leaves alone: all but PHASE, the completion record, the result registers, the
working registers and RX_BUF. -/
def SameButReception (s t : State) : Prop :=
  t.cfg = s.cfg ∧ t.txAddr = s.txAddr ∧ t.txOpc = s.txOpc ∧ t.txLen = s.txLen ∧ t.timeoutLo = s.timeoutLo ∧
    t.timeoutHi = s.timeoutHi ∧ t.rej = s.rej ∧ t.txCsum = s.txCsum ∧ t.idx = s.idx ∧ t.hRData = s.hRData ∧
    t.sent = s.sent ∧ t.inputs = s.inputs

end Sys2Proof.Machine
end

