-- ==== Sys2Proof/Certificates/Slice0/Obligations.lean ====
section
/-! DEFINITION. The statements for the provers. Each docstring names the rules of spec/ it formalises; "event" is one
of R13's. A statement quantifies over every state unless it says otherwise. -/

open Sys2Proof Sys2Proof.Machine

/-! ### Encoding -/

/-- Words and frames the spec writes out, and what they spell: host words (R110, R111 and the listings of P1 and P2),
the source's ping (E1) and the corrected status frame (E2). -/
def Obligations.SpecWordsDecode : Prop :=
  decodeTableWord 24 0x80205 = some (.hostWr 0x002 0x05) ∧
  decodeTableWord 24 0x00800 = some (.hostRd 0x008) ∧
  decodeTableWord 24 0x90102 = some (.hostWr 0x101 0x02) ∧
  decodeTableWord 24 0x20100 = some (.hostRd 0x201) ∧
  decodeTableWord 24 0x80000 = some .nop ∧
  decodeTableWord 24 0x80001 = some .start ∧
  decodeTableWord 24 0x80002 = some .abort ∧
  decodeTableWord 24 0x80003 = some .clear ∧
  decodeTableWord 24 0x800FF = some (.cmdRsvd 0xFF) ∧
  decode (.instrFrame [0xFF, 0xFF, 0x05, 0x02, 0x01, 0xF7]) = .ok (.ping 0x05 0x02 [0xF7]) ∧
  decode (.statusFrame [0xFF, 0xFF, 0x05, 0x03, 0x00, 0x14, 0xE3]) = .ok (.statusFrame ⟨0x05, 0x03, 0x00, [0x14, 0xE3]⟩)

/-- Decoding the encoding of a well-formed instruction gives it back, for every instruction and operand. -/
def Obligations.DecodeEncodeRoundTrip : Prop :=
  ∀ i : Instr, i.wf = true → decode (encode i) = .ok i

/-- What the decoder reads is well formed, and encoding it gives the code back, but for the data bits of a read, which
play no part: the model's reading of R110, log 7. -/
def Obligations.DecodedCodesAreCanonical : Prop :=
  (∀ (a : HostAddr) (d : Byte), decode (.host (encodeHost false a d)) = .ok (.hostRd a)) ∧
  ∀ (c : Code) (i : Instr), decode c = .ok i →
    i.wf = true ∧ (encode i = c ∨ ∃ a d, c = .host (encodeHost false a d) ∧ i = .hostRd a ∧ d ≠ 0)

/-- The decoder agrees with the opcode table: a code it reads is matched first by a row of that instruction's mnemonic
(R116; the order of the wire rows is the model's choice, log 13), but for a read word with data bits, which no row
matches (log 7). -/
def Obligations.DecoderFollowsTable : Prop :=
  ∀ (c : Code) (i : Instr), decode c = .ok i →
    tableMnemonic c = some i.mnemonic ∨ ∃ w a, c = .host w ∧ i = .hostRd a ∧ HostWord.data w ≠ 0

/-- R111: every command value; and, of R110, the word `{W, 0, A, D}` as a number (`D` = 0 for a read) and the words
with bit 18 set. -/
def Obligations.HostWordFields : Prop :=
  (∀ (a : HostAddr) (d : Byte), a ≠ 0 →
    decode (.host (BitVec.ofNat 20 (2 ^ 19 + a.toNat * 256 + d.toNat))) = .ok (.hostWr a d)) ∧
  (∀ a : HostAddr, decode (.host (BitVec.ofNat 20 (a.toNat * 256))) = .ok (.hostRd a)) ∧
  decode (.host 0x80000) = .ok .nop ∧ decode (.host 0x80001) = .ok .start ∧ decode (.host 0x80002) = .ok .abort ∧
  decode (.host 0x80003) = .ok .clear ∧
  (∀ d : Byte, 4 ≤ d.toNat → decode (.host (BitVec.ofNat 20 (2 ^ 19 + d.toNat))) = .ok (.cmdRsvd d)) ∧
  (∀ w : HostWord, w.getLsbD 18 = true → decode (.host w) = .error .reservedBit18)

/-! ### The step -/

/-- A step runs the decoded instruction: a host word is run, then the cycle's bus events, then the byte the UART takes
is recorded (`uartTakes`, log 20); a frame is run alone; and an instruction placed by `withNextCode` is the very next one
(the model's layout of inputs, log 1). -/
def Obligations.StepRunsDecodedInstruction : Prop :=
  (∀ (s : State) (c : Cycle) (rest : List Input) (w : HostWord) (i : Instr),
    s.inputs = .cycle c :: rest → c.rst = false → c.host = some w → decode (.host w) = .ok i →
    step s = thenEvents (fun t => uartTakes c (takeInput rest s) (busEvents c t)) (exec i (takeInput rest s))) ∧
  (∀ (s : State) (bytes : List Byte) (rest : List Input) (i : Instr),
    s.inputs = .instrFrame bytes :: rest → decode (.instrFrame bytes) = .ok i →
    step s = exec i (takeInput rest s)) ∧
  (∀ (s : State) (bytes : List Byte) (rest : List Input) (i : Instr),
    s.inputs = .statusFrame bytes :: rest → decode (.statusFrame bytes) = .ok i →
    step s = exec i (takeInput rest s)) ∧
  (∀ (s : State) (code : Code) (i : Instr), decode code = .ok i →
    step (withNextCode code s) = exec i { s with hRData := none })

/-- A step answers a next state on every input that spells something to run, and refuses the others by name; it never
faults. What spells nothing is the model's choice: a cycle whose host word has bit 18 set is refused whole, with its bus
events, unless it is a cycle of reset, and so are bytes that are no frame (log 19); a cycle that breaks the UART's
contract is admitted (log 15). -/
def Obligations.StepStopsOnlyOnWhatSpellsNothing : Prop :=
  ∀ s : State,
    (s.inputs = [] → ∃ t, step s = .next t) ∧
    ∀ (i : Input) (rest : List Input), s.inputs = i :: rest →
      (i.spells = true → ∃ t, step s = .next t) ∧
      (i.spells = false → ∃ e, step s = .refused (.undecodable e))

/-- R262: the events of one cycle take effect in the order host access, RxByte, TxAccept, TxIdle, Tick, each seeing
what the one before left; with RST = 1 only the reset does. `t0` is the state the host access leaves. Where the host
access or a reset takes the block out of TX, the model's own record `sent` may hold one byte more (log 20;
`UartTakesWhatItAcknowledges`). -/
def Obligations.CycleEventOrder : Prop :=
  ∀ (s t0 : State) (c : Cycle) (rest : List Input), s.inputs = .cycle c :: rest →
    (c.rst = false →
      (c.host = none ∧ t0 = takeInput rest s ∨
        ∃ w i, c.host = some w ∧ decode (.host w) = .ok i ∧ exec i (takeInput rest s) = .next t0) →
      ∃ t1 t2 t3 t4,
        (∀ b, c.rx = some b → t1 = onRxByte b t0) ∧ (c.rx = none → t1 = t0) ∧
        t2 = (if c.txAck then onTxAccept t1 else t1) ∧
        t3 = (if c.txIdle then onTxIdle t2 else t2) ∧
        t4 = (if c.tick then onTick t3 else t3) ∧
        ∃ w, step s = .next { t4 with sent := w } ∧ ((s.phase = .tx → t0.phase = .tx) → w = t4.sent)) ∧
    (c.rst = true → ∃ h w, step s = .next { onReset (takeInput rest s) with hRData := h, sent := w })

/-- What R287 (3) to (5) derives from R262: an ABORT beats a byte of its cycle, a byte beats a tick of its cycle, and a
byte that does not end the exchange is followed by the tick on a restarted timer. The ABORT's is the whole next state:
nothing of the byte is in it. `u` is what the byte alone gives. -/
def Obligations.SameCyclePriority : Prop :=
  ∀ (s : State) (b : Byte) (rest : List Input), s.phase.isRx = true →
    (s.inputs = .cycle { Cycle.quiet with host := some 0x80002, rx := some b } :: rest →
      step s = .next { s with phase := .idle, faultCode := .aborted, faultPhase := s.phase, deverr := false, done := true,
                              abrt := false, tmr := 0, hRData := none, inputs := rest }) ∧
    (s.inputs = .cycle { Cycle.quiet with rx := some b, tick := true } :: rest →
      ∃ t, step s = .next t ∧ ∀ u, u = onRxByte b (takeInput rest s) →
        (u.phase = .idle → t = u) ∧
        (u.phase ≠ .idle → s.timeout.toNat ≤ 1 → t.phase = .idle ∧ t.faultCode = .timeout ∧ t.faultPhase = u.phase) ∧
        (u.phase ≠ .idle → 1 < s.timeout.toNat → t.phase = u.phase ∧ t.tmr = 1))

/-! ### Reset and the invariants -/

/-- R320: a cycle with RST = 1 sets every piece of state to its reset value, leaves the buffers, ignores every other
event and answers a read with 0x00; the outputs are 0. What the wire's record, the model's own field, does in such a
cycle is in `UartTakesWhatItAcknowledges`. -/
def Obligations.ResetSetsEveryValue : Prop :=
  ∀ (s : State) (c : Cycle) (rest : List Input), s.inputs = .cycle c :: rest → c.rst = true →
    ∃ t, step s = .next t ∧
      t = { phase := .idle, cfg := 0, txAddr := 0, txOpc := 0, txLen := 0,
            timeoutLo := Config.timeoutReset.extractLsb' 0 8, timeoutHi := Config.timeoutReset.extractLsb' 8 8,
            done := false, deverr := false, rej := false, faultCode := .none, faultPhase := .idle,
            rxAddr := 0, rxLen := 0, rxErr := 0, rxCsum := 0, rxCalc := 0, rxCnt := 0, txCsum := 0,
            idx := 0, acc := 0, m1 := 0, tmr := 0, abrt := false,
            mem := s.mem, hRData := t.hRData, sent := t.sent, inputs := rest } ∧
      (∀ a, c.host = some (encodeHost false a 0) → t.hRData = some 0x00) ∧
      t.dir = false ∧ t.txValid = false ∧ t.irq = false ∧ t.txData = 0x00 ∧ hostRead t 0x008 = 0x00 ∧
      t.timeout = Config.timeoutReset

/-- The invariant holds right after reset, whatever is to come. -/
def Obligations.InvHoldsAtReset : Prop :=
  ∀ ins : List Input, Invariant { State.reset with inputs := ins }

/-- Every step keeps the invariant, from every state that meets it. -/
def Obligations.StepKeepsInv : Prop :=
  ∀ s t : State, Invariant s → step s = .next t → Invariant t

/-- The ten invariants of 10_state.md section 7 (R59, which the spec derives from its transition rules), in every
reachable state. Clause (10) speaks of the steps that are no reset. -/
def Obligations.ReachableStatesMeetR59 : Prop :=
  ∀ s : State, Reachable s →
    ((hostRead s 0x008).getLsbD 0 = true ↔ s.phase ≠ .idle) ∧
    PhaseInv s ∧
    s.faultCode.code.toNat ≤ 8 ∧ s.phase.code.toNat ≤ 9 ∧
    (∀ t : State, s.phase ≠ .idle → (∀ c rest, s.inputs = .cycle c :: rest → c.rst = false) → step s = .next t →
      SettingsFrozen s t)

/-! ### Host reads and writes -/

/-- R73: what a read of every host address returns, the numbers of PHASE, FAULT_PHASE and FAULT_CODE (R21, R280)
included; that it changes nothing but the data on H_RDATA, in every phase; and that reading again gives the same. -/
def Obligations.HostReadReturns : Prop :=
  (∀ (s : State) (a : HostAddr), exec (.hostRd a) s = .next { s with hRData := some (hostRead s a) }) ∧
  (∀ (s t : State) (a : HostAddr), exec (.hostRd a) s = .next t → exec (.hostRd a) t = .next t) ∧
  ∀ s : State,
    hostRead s 0x000 = 0x00 ∧ hostRead s 0x001 = s.cfg.setWidth 8 ∧ hostRead s 0x002 = s.txAddr ∧
    hostRead s 0x003 = s.txOpc ∧ hostRead s 0x004 = s.txLen ∧ hostRead s 0x005 = s.timeoutLo ∧
    hostRead s 0x006 = s.timeoutHi ∧ hostRead s 0x008 = s.status ∧
    (s.faultCode, hostRead s 0x009) ∈
      ([(.none, 0), (.invalidAddress, 1), (.payloadTooLong, 2), (.framing, 3), (.addrMismatch, 4), (.length, 5),
        (.checksum, 6), (.timeout, 7), (.aborted, 8)] : List (FaultCode × Byte)) ∧
    (∀ pb ∈ [(s.phase, hostRead s 0x00A), (s.faultPhase, hostRead s 0x00B)], pb ∈
      ([(.idle, 0), (.tx, 1), (.turn, 2), (.rxM1, 3), (.rxM2, 4), (.rxAddr, 5), (.rxLen, 6), (.rxErr, 7), (.rxPay, 8),
        (.rxCsum, 9)] : List (Phase × Byte))) ∧
    hostRead s 0x00C = s.rxAddr ∧ hostRead s 0x00D = s.rxLen ∧ hostRead s 0x00E = s.rxErr ∧
    hostRead s 0x00F = s.rxCsum ∧ hostRead s 0x010 = s.rxCalc ∧ hostRead s 0x011 = s.rxCnt ∧
    hostRead s 0x012 = s.txCsum ∧
    (∀ i, i < 253 → hostRead s (BitVec.ofNat 10 (0x100 + i)) = s.txBuf i ∧
      hostRead s (BitVec.ofNat 10 (0x200 + i)) = s.rxBuf i) ∧
    ∀ a : HostAddr, (0x012 < a.toNat ∧ a.toNat < 0x100 ∨ 0x1FC < a.toNat ∧ a.toNat < 0x200 ∨ 0x2FC < a.toNat ∨
      a.toNat = 0x007) → hostRead s a = 0x00

/-- R80: the reserved addresses read 0x00; writes to them have no effect and do not set REJ. -/
def Obligations.ReservedAddressesInert : Prop :=
  ∀ (s : State) (a : HostAddr) (d : Byte),
    (a.toNat = 0x007 ∨ 0x013 ≤ a.toNat ∧ a.toNat ≤ 0x0FF ∨ 0x1FD ≤ a.toNat ∧ a.toNat ≤ 0x1FF ∨ 0x2FD ≤ a.toNat) →
    exec (.hostRd a) s = .next { s with hRData := some 0x00 } ∧ exec (.hostWr a d) s = .next s

/-- R74, the writable registers in IDLE: each write's whole next state. Bits 7:2 of CFG are dropped. -/
def Obligations.HostWriteInIdle : Prop :=
  ∀ (s : State) (d : Byte), s.phase = .idle →
    exec (.hostWr 0x001 d) s = .next { s with cfg := d.setWidth 2 } ∧
    exec (.hostWr 0x002 d) s = .next { s with txAddr := d } ∧
    exec (.hostWr 0x003 d) s = .next { s with txOpc := d } ∧
    exec (.hostWr 0x004 d) s = .next { s with txLen := d } ∧
    exec (.hostWr 0x005 d) s = .next { s with timeoutLo := d } ∧
    exec (.hostWr 0x006 d) s = .next { s with timeoutHi := d } ∧
    ∀ i, i < 253 → ∃ t, exec (.hostWr (BitVec.ofNat 10 (0x100 + i)) d) s = .next t ∧ t = { s with mem := t.mem } ∧
      t.txBuf i = d ∧ ∀ a, a ≠ 0x100 + i → Memory.byteAt t.mem a = Memory.byteAt s.mem a

/-- R138: a write to any writable location while busy sets REJ and nothing else. -/
def Obligations.HostWriteRejectedWhileBusy : Prop :=
  ∀ (s : State) (a : HostAddr) (d : Byte), s.phase ≠ .idle →
    (1 ≤ a.toNat ∧ a.toNat ≤ 6 ∨ 0x100 ≤ a.toNat ∧ a.toNat ≤ 0x1FC) →
    exec (.hostWr a d) s = .next { s with rej := true }

/-- R79, R41: a write to a read-only location has no effect, in every phase. -/
def Obligations.ReadOnlyWritesIgnored : Prop :=
  ∀ (s : State) (a : HostAddr) (d : Byte),
    (0x008 ≤ a.toNat ∧ a.toNat ≤ 0x012 ∨ 0x200 ≤ a.toNat ∧ a.toNat ≤ 0x2FC) → exec (.hostWr a d) s = .next s

/-- R75: TIMEOUT is little-endian in the host space, low byte at 0x005, in every state; so after `settimeout v` in IDLE
(R115) it is `v`. -/
def Obligations.TimeoutLittleEndian : Prop :=
  (∀ s : State, s.timeout.toNat = (hostRead s 0x006).toNat * 256 + (hostRead s 0x005).toNat) ∧
  ∀ (s : State) (v : BitVec 16), s.phase = .idle →
    ∃ t, execAll (pseudoSetTimeout v) s = .next t ∧ t.timeout = v ∧ hostRead t 0x005 = v.extractLsb' 0 8 ∧
      hostRead t 0x006 = v.extractLsb' 8 8 ∧ t = { s with timeoutLo := t.timeoutLo, timeoutHi := t.timeoutHi }

/-- R31, R34, R37: the STATUS byte, bit by bit; a write to it is ignored; and it reads 0x00 after reset. -/
def Obligations.StatusBits : Prop :=
  hostRead State.reset 0x008 = 0x00 ∧ (∀ (s : State) (d : Byte), exec (.hostWr 0x008 d) s = .next s) ∧
  ∀ s : State,
    ((hostRead s 0x008).getLsbD 0 = decide (s.phase ≠ .idle)) ∧
    ((hostRead s 0x008).getLsbD 1 = s.done) ∧
    ((hostRead s 0x008).getLsbD 2 = decide (s.faultCode.code ≠ 0)) ∧
    ((hostRead s 0x008).getLsbD 3 = s.deverr) ∧
    ((hostRead s 0x008).getLsbD 4 = s.rej) ∧
    ((hostRead s 0x008).getLsbD 5 = (s.done && s.cfg.getLsbD 1)) ∧ s.irq = (hostRead s 0x008).getLsbD 5 ∧
    ((hostRead s 0x008).getLsbD 6 = false) ∧ ((hostRead s 0x008).getLsbD 7 = false)

/-- R115's `load_tx`, by R74: in IDLE its writes leave the TX fields at the arguments, TX_BUF with the payload, and
everything else as it was. -/
def Obligations.LoadTxLoadsTheFrame : Prop :=
  ∀ (s : State) (addr opc : Byte) (payload : List Byte), s.phase = .idle → payload.length ≤ 253 →
    ∃ t, execAll (pseudoLoadTx addr opc payload) s = .next t ∧
      t = { s with txAddr := addr, txOpc := opc, txLen := BitVec.ofNat 8 payload.length, mem := t.mem } ∧
      t.txPayload = payload ∧
      ∀ a, ¬ (0x100 ≤ a ∧ a < 0x100 + payload.length) → Memory.byteAt t.mem a = Memory.byteAt s.mem a

/-- Whatever the instruction, an exchange in flight keeps its settings, its frame's fields and TX_BUF (R59 (10), R138). -/
def Obligations.NoInstructionChangesBusySettings : Prop :=
  ∀ (i : Instr) (s t : State), s.phase ≠ .idle → exec i s = .next t → SettingsFrozen s t

/-! ### Commands -/

/-- R130: a write to CMD is decoded on its whole data byte, and CMD keeps no value. -/
def Obligations.CommandDispatch : Prop :=
  ∀ (d : Byte) (s : State),
    runCode (.host (encodeHost true 0x000 d)) s =
      (if d = 0x01 then exec .start s else if d = 0x02 then exec .abort s else if d = 0x03 then exec .clear s
       else if d = 0x00 then exec .nop s else exec (.cmdRsvd d) s) ∧
    ∀ t, runCode (.host (encodeHost true 0x000 d)) s = .next t → hostRead t 0x000 = 0x00

/-- R137: NOP has no effect in any phase; a reserved command sets REJ in any phase and nothing else. -/
def Obligations.NopAndReservedCommands : Prop :=
  ∀ s : State, exec .nop s = .next s ∧
    ∀ d : Byte, 4 ≤ d.toNat → exec (.cmdRsvd d) s = .next { s with rej := true }

/-- R131 and R132: START from IDLE. With TX_ADDR = 0xFF it ends in INVALID_ADDRESS, else with TX_LEN > 253 in
PAYLOAD_TOO_LONG, sending nothing; else the exchange begins. Each is the whole next state. -/
def Obligations.StartFromIdle : Prop :=
  ∀ s : State, s.phase = .idle →
    (∀ r : State, r = { s with done := false, deverr := false, faultCode := .none, faultPhase := .idle,
                               rxAddr := 0, rxLen := 0, rxErr := 0, rxCsum := 0, rxCalc := 0, rxCnt := 0 } →
      (s.txAddr = 0xFF →
        exec .start s = .next { r with faultCode := .invalidAddress, done := true, abrt := false, tmr := 0 }) ∧
      (s.txAddr ≠ 0xFF → 253 < s.txLen.toNat →
        exec .start s = .next { r with faultCode := .payloadTooLong, done := true, abrt := false, tmr := 0 }) ∧
      (s.txAddr ≠ 0xFF → s.txLen.toNat ≤ 253 →
        exec .start s = .next { r with
          txCsum := ~~~ sum8 ([s.txAddr, s.txLen + 2, s.txOpc] ++ (List.range s.txLen.toNat).map s.txBuf)
          idx := 0, abrt := false, phase := .tx }))

/-- R133 and R136: START and CLEAR while busy set REJ, and nothing else changes. -/
def Obligations.StartAndClearRejectedWhileBusy : Prop :=
  ∀ s : State, s.phase ≠ .idle →
    exec .start s = .next { s with rej := true } ∧ exec .clear s = .next { s with rej := true }

/-- R134: ABORT by phase: nothing in IDLE, the turnaround from TX, the mark in TURN (a second one changes nothing), and
ABORTED at once in an RX phase. REJ is never set. -/
def Obligations.AbortByPhase : Prop :=
  ∀ s : State,
    (s.phase = .idle → exec .abort s = .next s) ∧
    (s.phase = .tx → exec .abort s = .next { s with abrt := true, faultPhase := .tx, phase := .turn }) ∧
    (s.phase = .turn → s.abrt = false → exec .abort s = .next { s with abrt := true, faultPhase := .turn }) ∧
    (s.phase = .turn → s.abrt = true → exec .abort s = .next s) ∧
    (s.phase.isRx = true →
      exec .abort s = .next { s with faultCode := .aborted, faultPhase := s.phase, deverr := false, done := true,
                                     abrt := false, tmr := 0, phase := .idle })

/-- R135: CLEAR from IDLE clears DONE, DEVERR, REJ, FAULT_CODE and FAULT_PHASE and keeps everything else. -/
def Obligations.ClearFromIdle : Prop :=
  ∀ s : State, s.phase = .idle →
    exec .clear s = .next { s with done := false, deverr := false, rej := false, faultCode := .none,
                                   faultPhase := .idle }

/-- Of R36, that REJ is sticky: a step that turns it off is a reset, or runs a CLEAR from IDLE. -/
def Obligations.RejIsSticky : Prop :=
  ∀ s t : State, step s = .next t → s.rej = true → t.rej = false →
    ∃ c rest, s.inputs = .cycle c :: rest ∧ (c.rst = true ∨ c.host = some 0x80003 ∧ s.phase = .idle)

/-- Of R33, that only an accepted START, an accepted CLEAR or a reset turns DONE off. -/
def Obligations.DoneClearedOnlyByStartClearReset : Prop :=
  ∀ s t : State, step s = .next t → s.done = true → t.done = false →
    ∃ c rest, s.inputs = .cycle c :: rest ∧
      (c.rst = true ∨ s.phase = .idle ∧ (c.host = some 0x80001 ∨ c.host = some 0x80003))

/-- The table the spec derives in R250, and R86: the block leaves IDLE only on a START whose arguments pass the check. -/
def Obligations.OnlyStartLeavesIdle : Prop :=
  ∀ s t : State, step s = .next t → s.phase = .idle → t.phase ≠ .idle →
    ∃ c rest, s.inputs = .cycle c :: rest ∧ c.rst = false ∧ c.host = some 0x80001 ∧ s.txAddr ≠ 0xFF ∧
      s.txLen.toNat ≤ 253

/-- The table the spec derives in R250: the phase each event can lead to from each phase, and no other. -/
def Obligations.PhaseTransitionsFollowTable : Prop :=
  ∀ s : State,
    ((onTxAccept s).phase = s.phase ∨ s.phase = .tx ∧ (onTxAccept s).phase = .turn) ∧
    ((onTxIdle s).phase = s.phase ∨ s.phase = .turn ∧ ((onTxIdle s).phase = .idle ∨ (onTxIdle s).phase = .rxM1)) ∧
    ((onTick s).phase = s.phase ∨ s.phase.isRx = true ∧ (onTick s).phase = .idle) ∧
    (∀ b, (s.phase, (onRxByte b s).phase) ∈
      [(.idle, .idle), (.tx, .tx), (.turn, .turn), (.rxM1, .rxM2), (.rxM2, .rxAddr), (.rxM2, .idle), (.rxAddr, .rxLen),
       (.rxAddr, .idle), (.rxLen, .rxErr), (.rxLen, .idle), (.rxErr, .rxCsum), (.rxErr, .rxPay), (.rxPay, .rxPay),
       (.rxPay, .rxCsum), (.rxCsum, .idle)]) ∧
    (∀ (a : HostAddr) (d : Byte) (t : State), exec (.hostWr a d) s = .next t → t.phase = s.phase ∨
      a = 0x000 ∧ (d = 0x01 ∧ s.phase = .idle ∧ t.phase = .tx ∨ d = 0x02 ∧ s.phase = .tx ∧ t.phase = .turn ∨
        d = 0x02 ∧ s.phase.isRx = true ∧ t.phase = .idle))

/-- R252: TURN holds the bus, and a step leaves it only on `TxIdle` or a reset. -/
def Obligations.TurnEndsOnlyOnTxIdleOrReset : Prop :=
  ∀ s : State, s.phase = .turn → s.dir = true ∧
    ∀ t : State, step s = .next t → t.phase ≠ .turn →
      ∃ c rest, s.inputs = .cycle c :: rest ∧ (c.rst = true ∨ c.txIdle = true)

/-! ### Sending -/

/-- R103's equivalence, the spec's own inference: a checksum byte is the complement of the sum before it exactly when the sum with it is 0xFF. -/
def Obligations.ChecksumSumsToFF : Prop :=
  ∀ (bs : List Byte) (c : Byte), c = ~~~ sum8 bs ↔ sum8 (bs ++ [c]) = 0xFF

/-- R162 and R165, R166: in TX a `TxAccept` takes the byte TX_DATA presents and moves on, past the checksum to TURN;
in any other phase it has no effect. -/
def Obligations.TxAcceptTakesFrameByte : Prop :=
  ∀ s : State,
    (s.phase = .tx → s.idx.toNat = s.txLen.toNat + 5 →
      onTxAccept s = { s with sent := s.sent ++ [s.txData], phase := .turn }) ∧
    (s.phase = .tx → s.idx.toNat ≠ s.txLen.toNat + 5 →
      onTxAccept s = { s with sent := s.sent ++ [s.txData], idx := s.idx + 1 }) ∧
    (s.phase ≠ .tx → onTxAccept s = s)

/-- The spec's own inference R167, for the model's whole-frame inputs (log 10): a block that begins to send a frame, when the UART takes that frame, hands over exactly its bytes in order
and then waits in TURN. For INSTR_FRAME and the five device opcodes, in every state of TX with IDX = 0; the whole next
state. -/
def Obligations.InstrFrameIsSent : Prop :=
  ∀ (i : Instr) (f : Frame) (s : State), i.sentFrame = some f → s.phase = .tx → s.idx = 0 → s.txLen.toNat ≤ 253 →
    txFrame s = f.bytes →
    exec i s = .next { s with phase := .turn, idx := BitVec.ofNat 9 (s.txLen.toNat + 5), sent := s.sent ++ f.bytes }

/-- A frame the block does not present is not sent, and nothing changes: the model's choice (log 10); outside TX it is
R166's. -/
def Obligations.FrameNotPresentedIsNotSent : Prop :=
  ∀ (i : Instr) (f : Frame) (s : State), i.sentFrame = some f → (s.phase ≠ .tx ∨ txFrame s ≠ f.bytes) →
    exec i s = .next s

/-- The spec's own inferences R160 and R167: from IDLE with legal arguments, START and the frame of the TX fields hand
to the UART the bytes of `encode_instruction(address, opcode, payload)`, `n + 6` of them, and leave the block in TURN
with no fault. That an instruction frame is a run of accepts is the model's choice (log 10). -/
def Obligations.ExchangeSendsEncodedInstruction : Prop :=
  ∀ (i : Instr) (s : State), s.phase = .idle → s.txAddr ≠ 0xFF → s.txLen.toNat ≤ 253 →
    i.sentFrame = some (sentFrameOf s) →
    ∃ t u, exec .start s = .next t ∧ exec i t = .next u ∧ u.phase = .turn ∧ u.faultCode = .none ∧
      u.sent = s.sent ++ encodeInstruction s.txAddr s.txOpc s.txPayload ∧
      u.sent.length = s.sent.length + s.txLen.toNat + 6

/-- R253 and R260: `TxIdle` in TURN ends an aborted exchange, ends a suppressed one in success, or releases the bus for
the reply; elsewhere it has no effect. -/
def Obligations.TxIdleTurnsAround : Prop :=
  ∀ s : State,
    (s.phase = .turn → s.abrt = true → onTxIdle s =
      { s with faultCode := .aborted, faultPhase := s.faultPhase, deverr := false, done := true, abrt := false,
               tmr := 0, phase := .idle }) ∧
    (s.phase = .turn → s.abrt = false → s.cfg.getLsbD 0 = true → onTxIdle s =
      { s with faultCode := .none, faultPhase := .idle, deverr := false, done := true, abrt := false, tmr := 0,
               phase := .idle }) ∧
    (s.phase = .turn → s.abrt = false → s.cfg.getLsbD 0 = false →
      onTxIdle s = { s with tmr := 0, acc := 0, m1 := 0, phase := .rxM1 }) ∧
    (s.phase ≠ .turn → onTxIdle s = s)

/-- R251, R55: DIR is 1 exactly in TX and TURN, a received byte has an effect exactly in the RX phases, and the two
never hold at once. -/
def Obligations.NeverDrivesAndListens : Prop :=
  ∀ s : State,
    (s.dir = true ↔ s.phase = .tx ∨ s.phase = .turn) ∧
    (∀ b, onRxByte b s ≠ s ↔ s.phase.isRx = true) ∧
    ¬ (s.dir = true ∧ ∃ b, onRxByte b s ≠ s)

/-- R56, R57, R286: TX_VALID and TX_DATA, and the IRQ output, which rises at once with a CFG write in IDLE while DONE
is 1 and falls with an accepted CLEAR or a START that begins an exchange. -/
def Obligations.OutputsFollowState : Prop :=
  ∀ s : State,
    (s.txValid = true ↔ s.phase = .tx) ∧ (s.phase = .tx → s.txData = frameByte s s.idx.toNat) ∧
    (s.phase ≠ .tx → s.txData = 0x00) ∧ (s.irq = true ↔ s.done = true ∧ s.cfg.getLsbD 1 = true) ∧
    (∀ (d : Byte) (t : State), s.phase = .idle → s.done = true → exec (.hostWr 0x001 d) s = .next t →
      t.irq = d.getLsbD 1) ∧
    (∀ t : State, s.phase = .idle → exec .clear s = .next t → t.irq = false) ∧
    (∀ t : State, s.phase = .idle → exec .start s = .next t → t.phase = .tx → t.irq = false)

/-! ### Receiving -/

/-- R254, R203: bytes that arrive in IDLE, TX or TURN are dropped: a whole status frame changes nothing. -/
def Obligations.BytesOutsideRxAreDropped : Prop :=
  ∀ s : State, (s.phase = .idle ∨ s.phase = .tx ∨ s.phase = .turn) →
    (∀ b, onRxByte b s = s) ∧ ∀ f : Frame, exec (.statusFrame f) s = .next s

/-- R191 and R192: the marker's bytes; no check on the first, no hunting on the second. -/
def Obligations.MarkerBytes : Prop :=
  ∀ (s : State) (b : Byte),
    (s.phase = .rxM1 → onRxByte b s = { s with m1 := b, tmr := 0, phase := .rxM2 }) ∧
    (s.phase = .rxM2 → s.m1 = 0xFF → b = 0xFF → onRxByte b s = { s with tmr := 0, phase := .rxAddr }) ∧
    (s.phase = .rxM2 → ¬ (s.m1 = 0xFF ∧ b = 0xFF) →
      onRxByte b s = { s with faultCode := .framing, faultPhase := .rxM2, deverr := false, done := true, abrt := false,
                              tmr := 0, phase := .idle })

/-- R194, R195 and R196: the address byte, the length byte and the error byte, with their checks. -/
def Obligations.HeaderBytes : Prop :=
  ∀ (s : State) (b : Byte),
    (s.phase = .rxAddr → b = s.txAddr →
      onRxByte b s = { s with rxAddr := b, acc := b, tmr := 0, phase := .rxLen }) ∧
    (s.phase = .rxAddr → b ≠ s.txAddr →
      onRxByte b s = { s with rxAddr := b, acc := b, faultCode := .addrMismatch, faultPhase := .rxAddr, deverr := false,
                              done := true, abrt := false, tmr := 0, phase := .idle }) ∧
    (s.phase = .rxLen → 2 ≤ b.toNat →
      onRxByte b s = { s with rxLen := b, acc := s.acc + b, tmr := 0, phase := .rxErr }) ∧
    (s.phase = .rxLen → b.toNat < 2 →
      onRxByte b s = { s with rxLen := b, acc := s.acc + b, faultCode := .length, faultPhase := .rxLen, deverr := false,
                              done := true, abrt := false, tmr := 0, phase := .idle }) ∧
    (s.phase = .rxErr → s.rxLen = 2 →
      onRxByte b s = { s with rxErr := b, acc := s.acc + b, tmr := 0, phase := .rxCsum }) ∧
    (s.phase = .rxErr → s.rxLen ≠ 2 →
      onRxByte b s = { s with rxErr := b, acc := s.acc + b, tmr := 0, phase := .rxPay })

/-- R198: a payload byte, in the states R59 (6) allows: it is stored at `RX_BUF[RX_CNT]`, no other buffer byte
changes, and the last one moves on to the checksum. -/
def Obligations.PayloadByteIsStored : Prop :=
  ∀ (s : State) (b : Byte), s.phase = .rxPay → 3 ≤ s.rxLen.toNat → s.rxCnt.toNat < s.rxLen.toNat - 2 →
    ∃ m, onRxByte b s = { s with mem := m, rxCnt := s.rxCnt + 1, acc := s.acc + b, tmr := 0,
                                 phase := if s.rxCnt.toNat + 1 = s.rxLen.toNat - 2 then .rxCsum else .rxPay } ∧
      (s.rxCnt + 1).toNat = s.rxCnt.toNat + 1 ∧
      Memory.byteAt m (0x200 + s.rxCnt.toNat) = b ∧
      ∀ a, a ≠ 0x200 + s.rxCnt.toNat → Memory.byteAt m a = Memory.byteAt s.mem a

/-- R199 and R200: the checksum byte. A wrong one ends in CHECKSUM; the right one ends the exchange without fault, with
DEVERR telling whether the error byte is non-zero, bit 7 included (R232). -/
def Obligations.ChecksumByteDecides : Prop :=
  ∀ (s : State) (b : Byte), s.phase = .rxCsum →
    (b ≠ ~~~ s.acc →
      onRxByte b s = { s with rxCsum := b, rxCalc := ~~~ s.acc, faultCode := .checksum, faultPhase := .rxCsum,
                              deverr := false, done := true, abrt := false, tmr := 0, phase := .idle }) ∧
    (b = ~~~ s.acc →
      onRxByte b s = { s with rxCsum := b, rxCalc := ~~~ s.acc, faultCode := .none, faultPhase := .idle,
                              deverr := decide (s.rxErr ≠ 0), done := true, abrt := false, tmr := 0, phase := .idle })

/-- R101, R200: STATUS_FRAME completes: a good frame for TX_ADDR, delivered to a block that waits for its marker, ends
the exchange without fault. The whole next state; RX_BUF holds the payload and no other buffer byte changes. -/
def Obligations.GoodStatusFrameSucceeds : Prop :=
  ∀ (s : State) (len err : Byte) (payload : List Byte) (c : Byte), s.phase = .rxM1 → s.rxCnt = 0 →
    len.toNat = payload.length + 2 → c = ~~~ sum8 ([s.txAddr, len, err] ++ payload) →
    ∃ m, exec (.statusFrame ⟨s.txAddr, len, err, payload ++ [c]⟩) s = .next
        { s with phase := .idle, done := true, deverr := decide (err ≠ 0), faultCode := .none, faultPhase := .idle,
                 rxAddr := s.txAddr, rxLen := len, rxErr := err, rxCnt := BitVec.ofNat 8 payload.length,
                 rxCsum := c, rxCalc := c, acc := ~~~ c, m1 := 0xFF, tmr := 0, abrt := false, mem := m } ∧
      (∀ k, k < payload.length → Memory.byteAt m (0x200 + k) = payload.getD k 0) ∧
      ∀ a, ¬ (0x200 ≤ a ∧ a < 0x200 + payload.length) → Memory.byteAt m a = Memory.byteAt s.mem a

/-- STATUS_FRAME's frame, in every state: what a delivered frame leaves unchanged, TX_BUF and everything else outside
RX_BUF included (R190, R254); and, from a state that meets the invariant, every RX_BUF byte but those counted in by
RX_CNT (R198). -/
def Obligations.StatusFrameFrame : Prop :=
  ∀ (f : Frame) (s : State), ∃ t, exec (.statusFrame f) s = .next t ∧ SameButReception s t ∧
    (∀ a, ¬ (0x200 ≤ a ∧ a ≤ 0x2FC) → Memory.byteAt t.mem a = Memory.byteAt s.mem a) ∧
    (Invariant s → ∀ i, (i < s.rxCnt.toNat ∨ t.rxCnt.toNat ≤ i) → t.rxBuf i = s.rxBuf i)

/-- The spec's own inference R204: the RX phases are the pure decoder `decode(a, r)`: for every byte sequence the exchange ends as it says, after
as many bytes as it says and no sooner, with later bytes dropped; a sequence that stops short leaves the block waiting. -/
def Obligations.ReceptionIsPureDecode : Prop :=
  ∀ (s : State) (r : List Byte), s.phase = .rxM1 → s.rxCnt = 0 →
    match decodeStatus s.txAddr r with
    | .needMore => (deliverBytes r s).phase.isRx = true
    | .fault code n =>
      (∀ k, k < n → (deliverBytes (r.take k) s).phase.isRx = true) ∧ deliverBytes r s = deliverBytes (r.take n) s ∧
        (deliverBytes r s).phase = .idle ∧ (deliverBytes r s).done = true ∧ (deliverBytes r s).faultCode = code
    | .ok err payload n =>
      (∀ k, k < n → (deliverBytes (r.take k) s).phase.isRx = true) ∧ deliverBytes r s = deliverBytes (r.take n) s ∧
        (deliverBytes r s).phase = .idle ∧ (deliverBytes r s).done = true ∧ (deliverBytes r s).faultCode = .none ∧
        (deliverBytes r s).rxErr = err ∧ (deliverBytes r s).rxPayload = payload

/-- The spec's own inference R205 (1) and (2), but for the length byte: flipping one bit of an accepted frame is always caught: FRAMING for the
marker, ADDR_MISMATCH for the address, CHECKSUM for the error byte, a payload byte and the checksum byte. -/
def Obligations.SingleBitCorruptionIsCaught : Prop :=
  ∀ (a : Byte) (r : List Byte) (err : Byte) (payload : List Byte) (n j k : Nat),
    decodeStatus a r = .ok err payload n → j < n → j ≠ 3 → k < 8 →
    decodeStatus a (r.set j (r.getD j 0 ^^^ BitVec.twoPow 8 k)) =
      if j < 2 then .fault .framing 2 else if j = 2 then .fault .addrMismatch 3 else .fault .checksum n

/-- The spec's own inference R109, the echo: the frame an exchange sent, received back, passes every check, with RX_ERR = TX_OPC, RX_LEN = n + 2 and
the payload unchanged. -/
def Obligations.EchoRoundTrip : Prop :=
  ∀ s : State, s.phase = .idle → s.txAddr ≠ 0xFF → s.txLen.toNat ≤ 253 → s.cfg.getLsbD 0 = false →
    ∃ t u v, exec .start s = .next t ∧ exec (.instrFrame (sentFrameOf s)) t = .next u ∧
      exec (.statusFrame (sentFrameOf s)) (onTxIdle u) = .next v ∧
      v.phase = .idle ∧ v.done = true ∧ v.faultCode = .none ∧ v.rxAddr = s.txAddr ∧ v.rxErr = s.txOpc ∧
      v.rxLen = s.txLen + 2 ∧ v.rxPayload = s.txPayload

/-- The spec's own inference R202: what each result register holds when an exchange ends, by how it ended, from every state that meets the
invariant. -/
def Obligations.ResultsWhenExchangeEnds : Prop :=
  ∀ s : State, Invariant s →
    (∀ b, s.phase.isRx = true → (onRxByte b s).phase = .idle →
      ((onRxByte b s).faultCode = .framing → NothingReceived (onRxByte b s)) ∧
      ((onRxByte b s).faultCode = .addrMismatch →
        NothingReceived { onRxByte b s with rxAddr := 0 } ∧ (onRxByte b s).rxAddr = b) ∧
      ((onRxByte b s).faultCode = .length →
        NothingReceived { onRxByte b s with rxAddr := 0, rxLen := 0 } ∧ (onRxByte b s).rxAddr = s.rxAddr ∧
          (onRxByte b s).rxLen = b) ∧
      ((onRxByte b s).faultCode = .checksum ∨ (onRxByte b s).faultCode = .none →
        (onRxByte b s).rxAddr = s.rxAddr ∧ (onRxByte b s).rxLen = s.rxLen ∧ (onRxByte b s).rxErr = s.rxErr ∧
          (onRxByte b s).rxCnt.toNat = s.rxLen.toNat - 2 ∧ (onRxByte b s).rxPayload = s.rxPayload ∧
          (onRxByte b s).rxCsum = b ∧
          (onRxByte b s).rxCalc = ~~~ sum8 ([s.rxAddr, s.rxLen, s.rxErr] ++ s.rxPayload)) ∧
      ((onRxByte b s).faultCode = .checksum → (onRxByte b s).deverr = false) ∧
      ((onRxByte b s).faultCode = .none → (onRxByte b s).deverr = decide (s.rxErr ≠ 0))) ∧
    (s.phase.isRx = true → (onTick s).phase = .idle →
      (onTick s).faultCode = .timeout ∧ KeptUpTo s.phase s (onTick s)) ∧
    (∀ t, s.phase.isRx = true → exec .abort s = .next t → t.faultCode = .aborted ∧ KeptUpTo s.phase s t) ∧
    (s.phase = .turn → (onTxIdle s).phase = .idle → NothingReceived (onTxIdle s)) ∧
    (∀ t, s.phase = .idle → exec .start s = .next t → t.phase = .idle → NothingReceived t)

/-! ### The timer -/

/-- R256 and R258: a tick counts in the RX phases and times out on the incremented count; elsewhere it has no effect. -/
def Obligations.TickCountsInRx : Prop :=
  ∀ s : State,
    (s.phase.isRx = true → s.tmr + 1 < s.timeout → onTick s = { s with tmr := s.tmr + 1 }) ∧
    (s.phase.isRx = true → s.timeout ≤ s.tmr + 1 →
      onTick s = { s with faultCode := .timeout, faultPhase := s.phase, deverr := false, done := true, abrt := false,
                          tmr := 0, phase := .idle }) ∧
    (s.phase.isRx = false → onTick s = s)

/-- The spec's own inference R257: with TIMEOUT = t the exchange times out on the max(t, 1)-th consecutive tick, and not before. -/
def Obligations.TimesOutAfterConsecutiveTicks : Prop :=
  ∀ s : State, s.phase.isRx = true → s.tmr = 0 →
    (∀ k, k < max s.timeout.toNat 1 → onTick^[k] s = { s with tmr := BitVec.ofNat 16 k }) ∧
    onTick^[max s.timeout.toNat 1] s =
      { s with faultCode := .timeout, faultPhase := s.phase, deverr := false, done := true, abrt := false, tmr := 0,
               phase := .idle }

/-- The spec's own inference R265: an RX phase ends after at most 259 consumed bytes, whatever they are. -/
def Obligations.ReceptionEndsWithin259Bytes : Prop :=
  ∀ (s : State) (bs : List Byte), Invariant s → s.phase.isRx = true → 259 ≤ bs.length → (deliverBytes bs s).phase = .idle

/-! ### The error-flag parser -/

/-- R231 with R230: the flags of an error byte are exactly those of its set bits, each once, bit 7 as RESERVED7; the
result depends on the byte alone and loses no set bit. -/
def Obligations.ErrorFlagsAreTheSetBits : Prop :=
  (∀ e : Byte, (decodeErrorFlags e).Nodup ∧
    (.inputVoltage ∈ decodeErrorFlags e ↔ e.getLsbD 0 = true) ∧ (.angleLimit ∈ decodeErrorFlags e ↔ e.getLsbD 1 = true) ∧
    (.overheating ∈ decodeErrorFlags e ↔ e.getLsbD 2 = true) ∧ (.range ∈ decodeErrorFlags e ↔ e.getLsbD 3 = true) ∧
    (.checksum ∈ decodeErrorFlags e ↔ e.getLsbD 4 = true) ∧ (.overload ∈ decodeErrorFlags e ↔ e.getLsbD 5 = true) ∧
    (.instruction ∈ decodeErrorFlags e ↔ e.getLsbD 6 = true) ∧ (.reserved7 ∈ decodeErrorFlags e ↔ e.getLsbD 7 = true)) ∧
  (∀ e e' : Byte, decodeErrorFlags e = decodeErrorFlags e' → e = e') ∧
  decodeErrorFlags 0x00 = [] ∧ decodeErrorFlags 0x22 = [.angleLimit, .overload]

/-! ### The wire's record, opcodes and the broadcast address -/

/-- What the UART acknowledges it takes (R264 (1), read with R261 and R262; the model's inference, log 20): in a cycle
with TX_ACK = 1 that begins with TX_VALID = 1 the wire's record grows by the TX_DATA the cycle begins with, in a cycle of
ABORT or of reset too; without TX_ACK it does not grow; and where TX_VALID was 0, which breaks the UART's contract (log
15), it grows only if a START of that cycle has just entered TX. -/
def Obligations.UartTakesWhatItAcknowledges : Prop :=
  ∀ (s : State) (c : Cycle) (rest : List Input), s.inputs = .cycle c :: rest →
    (Input.cycle c).spells = true →
    ∃ t, step s = .next t ∧
      (c.txAck = true → s.txValid = true → t.sent = s.sent ++ [s.txData]) ∧
      (c.txAck = false → t.sent = s.sent) ∧
      (s.txValid = false → t.sent = s.sent ∨
        c.txAck = true ∧ c.rst = false ∧ c.host = some 0x80001 ∧ s.phase = .idle)

/-- R107 and R106 (6): the block sends every opcode unchanged and interprets none, so an exchange whose fields `load_tx`
loads puts the very frame on the wire, whichever opcode it has, and leaves TX_OPC as loaded. That an instruction frame
is a run of accepts is the model's choice (log 10). -/
def Obligations.EveryOpcodeIsSentUnchanged : Prop :=
  ∀ (s : State) (a opc : Byte) (ps : List Byte), s.phase = .idle → a ≠ 0xFF → ps.length ≤ 253 →
    ∃ t u, execAll (pseudoLoadTx a opc ps ++ pseudoStart) s = .next t ∧
      runCode (.instrFrame (encodeInstruction a opc ps)) t = .next u ∧
      u.phase = .turn ∧ u.txOpc = opc ∧ u.sent = s.sent ++ encodeInstruction a opc ps

/-- The broadcast address has no meaning of its own to the block (R106 (5), and R253's corner cases): an exchange to it
is sent like any other; with SUPPRESS = 1 its `TxIdle` ends it in success with nothing received, and with SUPPRESS = 0
the block waits for a reply. -/
def Obligations.BroadcastIsSentLikeAnyAddress : Prop :=
  ∀ s : State, s.phase = .idle → s.txAddr = Config.bcastAddr → s.txLen.toNat ≤ 253 →
    ∃ t u, exec .start s = .next t ∧ runCode (.instrFrame (sentFrameOf s).bytes) t = .next u ∧
      u.sent = s.sent ++ (sentFrameOf s).bytes ∧
      (s.cfg.getLsbD 0 = true → (onTxIdle u).phase = .idle ∧ (onTxIdle u).done = true ∧
        (onTxIdle u).faultCode = .none ∧ NothingReceived (onTxIdle u)) ∧
      (s.cfg.getLsbD 0 = false → (onTxIdle u).phase = .rxM1 ∧ (onTxIdle u).done = false)

/-! ### The host's wait loop -/

/-- R115's `wait_done`: it completes whatever happens around its polls, if that spells something to run; a poll in a
cycle without reset that finds DONE = 1 ends it at once, and in IDLE changes nothing but H_RDATA; a wait that has read
DONE makes no further poll; a wait cut off by its bound has read DONE in none of its polls; and, from a state that meets
the invariant, a wait that has read DONE leaves an exchange that has ended (R33, R330). While the UART and the tick stay
silent, a busy block keeps it polling to any bound (R337, R265). The bound is a number of polls: log 22. -/
def Obligations.WaitDoneStopsAtFirstDone : Prop :=
  (∀ (ps : List Poll) (s : State), (∀ p ∈ ps, ∀ i ∈ p.before, i.spells = true) →
    ∃ r, pseudoWaitDone ps s = .next r) ∧
  (∀ (c : Cycle) (ps : List Poll) (s : State), c.rst = false → s.done = true →
    ∃ t, pseudoWaitDone (⟨[], c⟩ :: ps) s = .next (true, t) ∧
      (s.phase = .idle → t = { s with hRData := some s.status })) ∧
  (∀ (ps qs : List Poll) (s t : State), pseudoWaitDone ps s = .next (true, t) →
    pseudoWaitDone (ps ++ qs) s = .next (true, t)) ∧
  (∀ (ps qs : List Poll) (s t : State), pseudoWaitDone (ps ++ qs) s = .next (false, t) →
    ∃ u, pseudoWaitDone ps s = .next (false, u) ∧ pseudoWaitDone qs u = .next (false, t)) ∧
  (∀ (p : Poll) (s t : State), pseudoWaitDone [p] s = .next (false, t) → ∀ b, t.hRData = some b → b.getLsbD 1 = false) ∧
  (∀ (ps : List Poll) (s t : State), Invariant s → pseudoWaitDone ps s = .next (true, t) →
    t.phase = .idle ∧ t.done = true ∧ t.hRData = some t.status) ∧
  ∀ (s : State) (n : Nat), s.phase ≠ .idle → s.done = false →
    ∃ t, pseudoWaitDone (List.replicate n ⟨[], Cycle.quiet⟩) s = .next (false, t) ∧ t = { s with hRData := t.hRData } ∧
      (0 < n → t.hRData = some s.status)
end

