-- ==== Sys2Proof/Laws/State.lean ====
section
/-! SUPPORT. One lemma per field per update, so that no proof unfolds a record update. -/

namespace Sys2Proof.Machine

/-! ### `complete` (R282) -/

@[simp] theorem complete_phase (f : FaultCode) (p : Phase) (s : State) : (complete f p s).phase = .idle := rfl
@[simp] theorem complete_cfg (f : FaultCode) (p : Phase) (s : State) : (complete f p s).cfg = s.cfg := rfl
@[simp] theorem complete_txAddr (f : FaultCode) (p : Phase) (s : State) : (complete f p s).txAddr = s.txAddr := rfl
@[simp] theorem complete_txOpc (f : FaultCode) (p : Phase) (s : State) : (complete f p s).txOpc = s.txOpc := rfl
@[simp] theorem complete_txLen (f : FaultCode) (p : Phase) (s : State) : (complete f p s).txLen = s.txLen := rfl
@[simp] theorem complete_timeoutLo (f : FaultCode) (p : Phase) (s : State) : (complete f p s).timeoutLo = s.timeoutLo := rfl
@[simp] theorem complete_timeoutHi (f : FaultCode) (p : Phase) (s : State) : (complete f p s).timeoutHi = s.timeoutHi := rfl
@[simp] theorem complete_done (f : FaultCode) (p : Phase) (s : State) : (complete f p s).done = true := rfl
@[simp] theorem complete_deverr (f : FaultCode) (p : Phase) (s : State) : (complete f p s).deverr = false := rfl
@[simp] theorem complete_rej (f : FaultCode) (p : Phase) (s : State) : (complete f p s).rej = s.rej := rfl
@[simp] theorem complete_faultCode (f : FaultCode) (p : Phase) (s : State) : (complete f p s).faultCode = f := rfl
@[simp] theorem complete_faultPhase (f : FaultCode) (p : Phase) (s : State) : (complete f p s).faultPhase = if f = .none then .idle else p := rfl
@[simp] theorem complete_rxAddr (f : FaultCode) (p : Phase) (s : State) : (complete f p s).rxAddr = s.rxAddr := rfl
@[simp] theorem complete_rxLen (f : FaultCode) (p : Phase) (s : State) : (complete f p s).rxLen = s.rxLen := rfl
@[simp] theorem complete_rxErr (f : FaultCode) (p : Phase) (s : State) : (complete f p s).rxErr = s.rxErr := rfl
@[simp] theorem complete_rxCsum (f : FaultCode) (p : Phase) (s : State) : (complete f p s).rxCsum = s.rxCsum := rfl
@[simp] theorem complete_rxCalc (f : FaultCode) (p : Phase) (s : State) : (complete f p s).rxCalc = s.rxCalc := rfl
@[simp] theorem complete_rxCnt (f : FaultCode) (p : Phase) (s : State) : (complete f p s).rxCnt = s.rxCnt := rfl
@[simp] theorem complete_txCsum (f : FaultCode) (p : Phase) (s : State) : (complete f p s).txCsum = s.txCsum := rfl
@[simp] theorem complete_idx (f : FaultCode) (p : Phase) (s : State) : (complete f p s).idx = s.idx := rfl
@[simp] theorem complete_acc (f : FaultCode) (p : Phase) (s : State) : (complete f p s).acc = s.acc := rfl
@[simp] theorem complete_m1 (f : FaultCode) (p : Phase) (s : State) : (complete f p s).m1 = s.m1 := rfl
@[simp] theorem complete_tmr (f : FaultCode) (p : Phase) (s : State) : (complete f p s).tmr = 0 := rfl
@[simp] theorem complete_abrt (f : FaultCode) (p : Phase) (s : State) : (complete f p s).abrt = false := rfl
@[simp] theorem complete_mem (f : FaultCode) (p : Phase) (s : State) : (complete f p s).mem = s.mem := rfl
@[simp] theorem complete_hRData (f : FaultCode) (p : Phase) (s : State) : (complete f p s).hRData = s.hRData := rfl
@[simp] theorem complete_sent (f : FaultCode) (p : Phase) (s : State) : (complete f p s).sent = s.sent := rfl
@[simp] theorem complete_inputs (f : FaultCode) (p : Phase) (s : State) : (complete f p s).inputs = s.inputs := rfl

/-! ### `succeed` (R200) -/

@[simp] theorem succeed_phase (s : State) : (succeed s).phase = .idle := rfl
@[simp] theorem succeed_cfg (s : State) : (succeed s).cfg = s.cfg := rfl
@[simp] theorem succeed_txAddr (s : State) : (succeed s).txAddr = s.txAddr := rfl
@[simp] theorem succeed_txOpc (s : State) : (succeed s).txOpc = s.txOpc := rfl
@[simp] theorem succeed_txLen (s : State) : (succeed s).txLen = s.txLen := rfl
@[simp] theorem succeed_timeoutLo (s : State) : (succeed s).timeoutLo = s.timeoutLo := rfl
@[simp] theorem succeed_timeoutHi (s : State) : (succeed s).timeoutHi = s.timeoutHi := rfl
@[simp] theorem succeed_done (s : State) : (succeed s).done = true := rfl
@[simp] theorem succeed_deverr (s : State) : (succeed s).deverr = decide (s.rxErr ≠ 0x00) := rfl
@[simp] theorem succeed_rej (s : State) : (succeed s).rej = s.rej := rfl
@[simp] theorem succeed_faultCode (s : State) : (succeed s).faultCode = .none := rfl
@[simp] theorem succeed_faultPhase (s : State) : (succeed s).faultPhase = .idle := rfl
@[simp] theorem succeed_rxAddr (s : State) : (succeed s).rxAddr = s.rxAddr := rfl
@[simp] theorem succeed_rxLen (s : State) : (succeed s).rxLen = s.rxLen := rfl
@[simp] theorem succeed_rxErr (s : State) : (succeed s).rxErr = s.rxErr := rfl
@[simp] theorem succeed_rxCsum (s : State) : (succeed s).rxCsum = s.rxCsum := rfl
@[simp] theorem succeed_rxCalc (s : State) : (succeed s).rxCalc = s.rxCalc := rfl
@[simp] theorem succeed_rxCnt (s : State) : (succeed s).rxCnt = s.rxCnt := rfl
@[simp] theorem succeed_txCsum (s : State) : (succeed s).txCsum = s.txCsum := rfl
@[simp] theorem succeed_idx (s : State) : (succeed s).idx = s.idx := rfl
@[simp] theorem succeed_acc (s : State) : (succeed s).acc = s.acc := rfl
@[simp] theorem succeed_m1 (s : State) : (succeed s).m1 = s.m1 := rfl
@[simp] theorem succeed_tmr (s : State) : (succeed s).tmr = 0 := rfl
@[simp] theorem succeed_abrt (s : State) : (succeed s).abrt = false := rfl
@[simp] theorem succeed_mem (s : State) : (succeed s).mem = s.mem := rfl
@[simp] theorem succeed_hRData (s : State) : (succeed s).hRData = s.hRData := rfl
@[simp] theorem succeed_sent (s : State) : (succeed s).sent = s.sent := rfl
@[simp] theorem succeed_inputs (s : State) : (succeed s).inputs = s.inputs := rfl

/-! ### `reject` (R36) -/

@[simp] theorem reject_phase (s : State) : (reject s).phase = s.phase := rfl
@[simp] theorem reject_cfg (s : State) : (reject s).cfg = s.cfg := rfl
@[simp] theorem reject_txAddr (s : State) : (reject s).txAddr = s.txAddr := rfl
@[simp] theorem reject_txOpc (s : State) : (reject s).txOpc = s.txOpc := rfl
@[simp] theorem reject_txLen (s : State) : (reject s).txLen = s.txLen := rfl
@[simp] theorem reject_timeoutLo (s : State) : (reject s).timeoutLo = s.timeoutLo := rfl
@[simp] theorem reject_timeoutHi (s : State) : (reject s).timeoutHi = s.timeoutHi := rfl
@[simp] theorem reject_done (s : State) : (reject s).done = s.done := rfl
@[simp] theorem reject_deverr (s : State) : (reject s).deverr = s.deverr := rfl
@[simp] theorem reject_rej (s : State) : (reject s).rej = true := rfl
@[simp] theorem reject_faultCode (s : State) : (reject s).faultCode = s.faultCode := rfl
@[simp] theorem reject_faultPhase (s : State) : (reject s).faultPhase = s.faultPhase := rfl
@[simp] theorem reject_rxAddr (s : State) : (reject s).rxAddr = s.rxAddr := rfl
@[simp] theorem reject_rxLen (s : State) : (reject s).rxLen = s.rxLen := rfl
@[simp] theorem reject_rxErr (s : State) : (reject s).rxErr = s.rxErr := rfl
@[simp] theorem reject_rxCsum (s : State) : (reject s).rxCsum = s.rxCsum := rfl
@[simp] theorem reject_rxCalc (s : State) : (reject s).rxCalc = s.rxCalc := rfl
@[simp] theorem reject_rxCnt (s : State) : (reject s).rxCnt = s.rxCnt := rfl
@[simp] theorem reject_txCsum (s : State) : (reject s).txCsum = s.txCsum := rfl
@[simp] theorem reject_idx (s : State) : (reject s).idx = s.idx := rfl
@[simp] theorem reject_acc (s : State) : (reject s).acc = s.acc := rfl
@[simp] theorem reject_m1 (s : State) : (reject s).m1 = s.m1 := rfl
@[simp] theorem reject_tmr (s : State) : (reject s).tmr = s.tmr := rfl
@[simp] theorem reject_abrt (s : State) : (reject s).abrt = s.abrt := rfl
@[simp] theorem reject_mem (s : State) : (reject s).mem = s.mem := rfl
@[simp] theorem reject_hRData (s : State) : (reject s).hRData = s.hRData := rfl
@[simp] theorem reject_sent (s : State) : (reject s).sent = s.sent := rfl
@[simp] theorem reject_inputs (s : State) : (reject s).inputs = s.inputs := rfl

/-! ### `clearCompletion` (R135) -/

@[simp] theorem clearCompletion_phase (s : State) : (clearCompletion s).phase = s.phase := rfl
@[simp] theorem clearCompletion_cfg (s : State) : (clearCompletion s).cfg = s.cfg := rfl
@[simp] theorem clearCompletion_txAddr (s : State) : (clearCompletion s).txAddr = s.txAddr := rfl
@[simp] theorem clearCompletion_txOpc (s : State) : (clearCompletion s).txOpc = s.txOpc := rfl
@[simp] theorem clearCompletion_txLen (s : State) : (clearCompletion s).txLen = s.txLen := rfl
@[simp] theorem clearCompletion_timeoutLo (s : State) : (clearCompletion s).timeoutLo = s.timeoutLo := rfl
@[simp] theorem clearCompletion_timeoutHi (s : State) : (clearCompletion s).timeoutHi = s.timeoutHi := rfl
@[simp] theorem clearCompletion_done (s : State) : (clearCompletion s).done = false := rfl
@[simp] theorem clearCompletion_deverr (s : State) : (clearCompletion s).deverr = false := rfl
@[simp] theorem clearCompletion_rej (s : State) : (clearCompletion s).rej = false := rfl
@[simp] theorem clearCompletion_faultCode (s : State) : (clearCompletion s).faultCode = .none := rfl
@[simp] theorem clearCompletion_faultPhase (s : State) : (clearCompletion s).faultPhase = .idle := rfl
@[simp] theorem clearCompletion_rxAddr (s : State) : (clearCompletion s).rxAddr = s.rxAddr := rfl
@[simp] theorem clearCompletion_rxLen (s : State) : (clearCompletion s).rxLen = s.rxLen := rfl
@[simp] theorem clearCompletion_rxErr (s : State) : (clearCompletion s).rxErr = s.rxErr := rfl
@[simp] theorem clearCompletion_rxCsum (s : State) : (clearCompletion s).rxCsum = s.rxCsum := rfl
@[simp] theorem clearCompletion_rxCalc (s : State) : (clearCompletion s).rxCalc = s.rxCalc := rfl
@[simp] theorem clearCompletion_rxCnt (s : State) : (clearCompletion s).rxCnt = s.rxCnt := rfl
@[simp] theorem clearCompletion_txCsum (s : State) : (clearCompletion s).txCsum = s.txCsum := rfl
@[simp] theorem clearCompletion_idx (s : State) : (clearCompletion s).idx = s.idx := rfl
@[simp] theorem clearCompletion_acc (s : State) : (clearCompletion s).acc = s.acc := rfl
@[simp] theorem clearCompletion_m1 (s : State) : (clearCompletion s).m1 = s.m1 := rfl
@[simp] theorem clearCompletion_tmr (s : State) : (clearCompletion s).tmr = s.tmr := rfl
@[simp] theorem clearCompletion_abrt (s : State) : (clearCompletion s).abrt = s.abrt := rfl
@[simp] theorem clearCompletion_mem (s : State) : (clearCompletion s).mem = s.mem := rfl
@[simp] theorem clearCompletion_hRData (s : State) : (clearCompletion s).hRData = s.hRData := rfl
@[simp] theorem clearCompletion_sent (s : State) : (clearCompletion s).sent = s.sent := rfl
@[simp] theorem clearCompletion_inputs (s : State) : (clearCompletion s).inputs = s.inputs := rfl

/-! ### `clearResults` (R132) -/

@[simp] theorem clearResults_phase (s : State) : (clearResults s).phase = s.phase := rfl
@[simp] theorem clearResults_cfg (s : State) : (clearResults s).cfg = s.cfg := rfl
@[simp] theorem clearResults_txAddr (s : State) : (clearResults s).txAddr = s.txAddr := rfl
@[simp] theorem clearResults_txOpc (s : State) : (clearResults s).txOpc = s.txOpc := rfl
@[simp] theorem clearResults_txLen (s : State) : (clearResults s).txLen = s.txLen := rfl
@[simp] theorem clearResults_timeoutLo (s : State) : (clearResults s).timeoutLo = s.timeoutLo := rfl
@[simp] theorem clearResults_timeoutHi (s : State) : (clearResults s).timeoutHi = s.timeoutHi := rfl
@[simp] theorem clearResults_done (s : State) : (clearResults s).done = false := rfl
@[simp] theorem clearResults_deverr (s : State) : (clearResults s).deverr = false := rfl
@[simp] theorem clearResults_rej (s : State) : (clearResults s).rej = s.rej := rfl
@[simp] theorem clearResults_faultCode (s : State) : (clearResults s).faultCode = .none := rfl
@[simp] theorem clearResults_faultPhase (s : State) : (clearResults s).faultPhase = .idle := rfl
@[simp] theorem clearResults_rxAddr (s : State) : (clearResults s).rxAddr = 0x00 := rfl
@[simp] theorem clearResults_rxLen (s : State) : (clearResults s).rxLen = 0x00 := rfl
@[simp] theorem clearResults_rxErr (s : State) : (clearResults s).rxErr = 0x00 := rfl
@[simp] theorem clearResults_rxCsum (s : State) : (clearResults s).rxCsum = 0x00 := rfl
@[simp] theorem clearResults_rxCalc (s : State) : (clearResults s).rxCalc = 0x00 := rfl
@[simp] theorem clearResults_rxCnt (s : State) : (clearResults s).rxCnt = 0x00 := rfl
@[simp] theorem clearResults_txCsum (s : State) : (clearResults s).txCsum = s.txCsum := rfl
@[simp] theorem clearResults_idx (s : State) : (clearResults s).idx = s.idx := rfl
@[simp] theorem clearResults_acc (s : State) : (clearResults s).acc = s.acc := rfl
@[simp] theorem clearResults_m1 (s : State) : (clearResults s).m1 = s.m1 := rfl
@[simp] theorem clearResults_tmr (s : State) : (clearResults s).tmr = s.tmr := rfl
@[simp] theorem clearResults_abrt (s : State) : (clearResults s).abrt = s.abrt := rfl
@[simp] theorem clearResults_mem (s : State) : (clearResults s).mem = s.mem := rfl
@[simp] theorem clearResults_hRData (s : State) : (clearResults s).hRData = s.hRData := rfl
@[simp] theorem clearResults_sent (s : State) : (clearResults s).sent = s.sent := rfl
@[simp] theorem clearResults_inputs (s : State) : (clearResults s).inputs = s.inputs := rfl

/-! ### `beginTx` (R132) -/

@[simp] theorem beginTx_phase (s : State) : (beginTx s).phase = .tx := rfl
@[simp] theorem beginTx_cfg (s : State) : (beginTx s).cfg = s.cfg := rfl
@[simp] theorem beginTx_txAddr (s : State) : (beginTx s).txAddr = s.txAddr := rfl
@[simp] theorem beginTx_txOpc (s : State) : (beginTx s).txOpc = s.txOpc := rfl
@[simp] theorem beginTx_txLen (s : State) : (beginTx s).txLen = s.txLen := rfl
@[simp] theorem beginTx_timeoutLo (s : State) : (beginTx s).timeoutLo = s.timeoutLo := rfl
@[simp] theorem beginTx_timeoutHi (s : State) : (beginTx s).timeoutHi = s.timeoutHi := rfl
@[simp] theorem beginTx_done (s : State) : (beginTx s).done = s.done := rfl
@[simp] theorem beginTx_deverr (s : State) : (beginTx s).deverr = s.deverr := rfl
@[simp] theorem beginTx_rej (s : State) : (beginTx s).rej = s.rej := rfl
@[simp] theorem beginTx_faultCode (s : State) : (beginTx s).faultCode = s.faultCode := rfl
@[simp] theorem beginTx_faultPhase (s : State) : (beginTx s).faultPhase = s.faultPhase := rfl
@[simp] theorem beginTx_rxAddr (s : State) : (beginTx s).rxAddr = s.rxAddr := rfl
@[simp] theorem beginTx_rxLen (s : State) : (beginTx s).rxLen = s.rxLen := rfl
@[simp] theorem beginTx_rxErr (s : State) : (beginTx s).rxErr = s.rxErr := rfl
@[simp] theorem beginTx_rxCsum (s : State) : (beginTx s).rxCsum = s.rxCsum := rfl
@[simp] theorem beginTx_rxCalc (s : State) : (beginTx s).rxCalc = s.rxCalc := rfl
@[simp] theorem beginTx_rxCnt (s : State) : (beginTx s).rxCnt = s.rxCnt := rfl
@[simp] theorem beginTx_txCsum (s : State) : (beginTx s).txCsum = frameChecksum s := rfl
@[simp] theorem beginTx_idx (s : State) : (beginTx s).idx = 0 := rfl
@[simp] theorem beginTx_acc (s : State) : (beginTx s).acc = s.acc := rfl
@[simp] theorem beginTx_m1 (s : State) : (beginTx s).m1 = s.m1 := rfl
@[simp] theorem beginTx_tmr (s : State) : (beginTx s).tmr = s.tmr := rfl
@[simp] theorem beginTx_abrt (s : State) : (beginTx s).abrt = false := rfl
@[simp] theorem beginTx_mem (s : State) : (beginTx s).mem = s.mem := rfl
@[simp] theorem beginTx_hRData (s : State) : (beginTx s).hRData = s.hRData := rfl
@[simp] theorem beginTx_sent (s : State) : (beginTx s).sent = s.sent := rfl
@[simp] theorem beginTx_inputs (s : State) : (beginTx s).inputs = s.inputs := rfl

/-! ### `setTxBuf` (R74) -/

@[simp] theorem setTxBuf_phase (i : Nat) (v : Byte) (s : State) : (setTxBuf i v s).phase = s.phase := rfl
@[simp] theorem setTxBuf_cfg (i : Nat) (v : Byte) (s : State) : (setTxBuf i v s).cfg = s.cfg := rfl
@[simp] theorem setTxBuf_txAddr (i : Nat) (v : Byte) (s : State) : (setTxBuf i v s).txAddr = s.txAddr := rfl
@[simp] theorem setTxBuf_txOpc (i : Nat) (v : Byte) (s : State) : (setTxBuf i v s).txOpc = s.txOpc := rfl
@[simp] theorem setTxBuf_txLen (i : Nat) (v : Byte) (s : State) : (setTxBuf i v s).txLen = s.txLen := rfl
@[simp] theorem setTxBuf_timeoutLo (i : Nat) (v : Byte) (s : State) : (setTxBuf i v s).timeoutLo = s.timeoutLo := rfl
@[simp] theorem setTxBuf_timeoutHi (i : Nat) (v : Byte) (s : State) : (setTxBuf i v s).timeoutHi = s.timeoutHi := rfl
@[simp] theorem setTxBuf_done (i : Nat) (v : Byte) (s : State) : (setTxBuf i v s).done = s.done := rfl
@[simp] theorem setTxBuf_deverr (i : Nat) (v : Byte) (s : State) : (setTxBuf i v s).deverr = s.deverr := rfl
@[simp] theorem setTxBuf_rej (i : Nat) (v : Byte) (s : State) : (setTxBuf i v s).rej = s.rej := rfl
@[simp] theorem setTxBuf_faultCode (i : Nat) (v : Byte) (s : State) : (setTxBuf i v s).faultCode = s.faultCode := rfl
@[simp] theorem setTxBuf_faultPhase (i : Nat) (v : Byte) (s : State) : (setTxBuf i v s).faultPhase = s.faultPhase := rfl
@[simp] theorem setTxBuf_rxAddr (i : Nat) (v : Byte) (s : State) : (setTxBuf i v s).rxAddr = s.rxAddr := rfl
@[simp] theorem setTxBuf_rxLen (i : Nat) (v : Byte) (s : State) : (setTxBuf i v s).rxLen = s.rxLen := rfl
@[simp] theorem setTxBuf_rxErr (i : Nat) (v : Byte) (s : State) : (setTxBuf i v s).rxErr = s.rxErr := rfl
@[simp] theorem setTxBuf_rxCsum (i : Nat) (v : Byte) (s : State) : (setTxBuf i v s).rxCsum = s.rxCsum := rfl
@[simp] theorem setTxBuf_rxCalc (i : Nat) (v : Byte) (s : State) : (setTxBuf i v s).rxCalc = s.rxCalc := rfl
@[simp] theorem setTxBuf_rxCnt (i : Nat) (v : Byte) (s : State) : (setTxBuf i v s).rxCnt = s.rxCnt := rfl
@[simp] theorem setTxBuf_txCsum (i : Nat) (v : Byte) (s : State) : (setTxBuf i v s).txCsum = s.txCsum := rfl
@[simp] theorem setTxBuf_idx (i : Nat) (v : Byte) (s : State) : (setTxBuf i v s).idx = s.idx := rfl
@[simp] theorem setTxBuf_acc (i : Nat) (v : Byte) (s : State) : (setTxBuf i v s).acc = s.acc := rfl
@[simp] theorem setTxBuf_m1 (i : Nat) (v : Byte) (s : State) : (setTxBuf i v s).m1 = s.m1 := rfl
@[simp] theorem setTxBuf_tmr (i : Nat) (v : Byte) (s : State) : (setTxBuf i v s).tmr = s.tmr := rfl
@[simp] theorem setTxBuf_abrt (i : Nat) (v : Byte) (s : State) : (setTxBuf i v s).abrt = s.abrt := rfl
@[simp] theorem setTxBuf_mem (i : Nat) (v : Byte) (s : State) : (setTxBuf i v s).mem = Memory.write s.mem (txBufAddr i) v := rfl
@[simp] theorem setTxBuf_hRData (i : Nat) (v : Byte) (s : State) : (setTxBuf i v s).hRData = s.hRData := rfl
@[simp] theorem setTxBuf_sent (i : Nat) (v : Byte) (s : State) : (setTxBuf i v s).sent = s.sent := rfl
@[simp] theorem setTxBuf_inputs (i : Nat) (v : Byte) (s : State) : (setTxBuf i v s).inputs = s.inputs := rfl

/-! ### `takeInput` -/

@[simp] theorem takeInput_phase (r : List Input) (s : State) : (takeInput r s).phase = s.phase := rfl
@[simp] theorem takeInput_cfg (r : List Input) (s : State) : (takeInput r s).cfg = s.cfg := rfl
@[simp] theorem takeInput_txAddr (r : List Input) (s : State) : (takeInput r s).txAddr = s.txAddr := rfl
@[simp] theorem takeInput_txOpc (r : List Input) (s : State) : (takeInput r s).txOpc = s.txOpc := rfl
@[simp] theorem takeInput_txLen (r : List Input) (s : State) : (takeInput r s).txLen = s.txLen := rfl
@[simp] theorem takeInput_timeoutLo (r : List Input) (s : State) : (takeInput r s).timeoutLo = s.timeoutLo := rfl
@[simp] theorem takeInput_timeoutHi (r : List Input) (s : State) : (takeInput r s).timeoutHi = s.timeoutHi := rfl
@[simp] theorem takeInput_done (r : List Input) (s : State) : (takeInput r s).done = s.done := rfl
@[simp] theorem takeInput_deverr (r : List Input) (s : State) : (takeInput r s).deverr = s.deverr := rfl
@[simp] theorem takeInput_rej (r : List Input) (s : State) : (takeInput r s).rej = s.rej := rfl
@[simp] theorem takeInput_faultCode (r : List Input) (s : State) : (takeInput r s).faultCode = s.faultCode := rfl
@[simp] theorem takeInput_faultPhase (r : List Input) (s : State) : (takeInput r s).faultPhase = s.faultPhase := rfl
@[simp] theorem takeInput_rxAddr (r : List Input) (s : State) : (takeInput r s).rxAddr = s.rxAddr := rfl
@[simp] theorem takeInput_rxLen (r : List Input) (s : State) : (takeInput r s).rxLen = s.rxLen := rfl
@[simp] theorem takeInput_rxErr (r : List Input) (s : State) : (takeInput r s).rxErr = s.rxErr := rfl
@[simp] theorem takeInput_rxCsum (r : List Input) (s : State) : (takeInput r s).rxCsum = s.rxCsum := rfl
@[simp] theorem takeInput_rxCalc (r : List Input) (s : State) : (takeInput r s).rxCalc = s.rxCalc := rfl
@[simp] theorem takeInput_rxCnt (r : List Input) (s : State) : (takeInput r s).rxCnt = s.rxCnt := rfl
@[simp] theorem takeInput_txCsum (r : List Input) (s : State) : (takeInput r s).txCsum = s.txCsum := rfl
@[simp] theorem takeInput_idx (r : List Input) (s : State) : (takeInput r s).idx = s.idx := rfl
@[simp] theorem takeInput_acc (r : List Input) (s : State) : (takeInput r s).acc = s.acc := rfl
@[simp] theorem takeInput_m1 (r : List Input) (s : State) : (takeInput r s).m1 = s.m1 := rfl
@[simp] theorem takeInput_tmr (r : List Input) (s : State) : (takeInput r s).tmr = s.tmr := rfl
@[simp] theorem takeInput_abrt (r : List Input) (s : State) : (takeInput r s).abrt = s.abrt := rfl
@[simp] theorem takeInput_mem (r : List Input) (s : State) : (takeInput r s).mem = s.mem := rfl
@[simp] theorem takeInput_hRData (r : List Input) (s : State) : (takeInput r s).hRData = none := rfl
@[simp] theorem takeInput_sent (r : List Input) (s : State) : (takeInput r s).sent = s.sent := rfl
@[simp] theorem takeInput_inputs (r : List Input) (s : State) : (takeInput r s).inputs = r := rfl

/-! ### `idleCycle` -/

@[simp] theorem idleCycle_phase (s : State) : (idleCycle s).phase = s.phase := rfl
@[simp] theorem idleCycle_cfg (s : State) : (idleCycle s).cfg = s.cfg := rfl
@[simp] theorem idleCycle_txAddr (s : State) : (idleCycle s).txAddr = s.txAddr := rfl
@[simp] theorem idleCycle_txOpc (s : State) : (idleCycle s).txOpc = s.txOpc := rfl
@[simp] theorem idleCycle_txLen (s : State) : (idleCycle s).txLen = s.txLen := rfl
@[simp] theorem idleCycle_timeoutLo (s : State) : (idleCycle s).timeoutLo = s.timeoutLo := rfl
@[simp] theorem idleCycle_timeoutHi (s : State) : (idleCycle s).timeoutHi = s.timeoutHi := rfl
@[simp] theorem idleCycle_done (s : State) : (idleCycle s).done = s.done := rfl
@[simp] theorem idleCycle_deverr (s : State) : (idleCycle s).deverr = s.deverr := rfl
@[simp] theorem idleCycle_rej (s : State) : (idleCycle s).rej = s.rej := rfl
@[simp] theorem idleCycle_faultCode (s : State) : (idleCycle s).faultCode = s.faultCode := rfl
@[simp] theorem idleCycle_faultPhase (s : State) : (idleCycle s).faultPhase = s.faultPhase := rfl
@[simp] theorem idleCycle_rxAddr (s : State) : (idleCycle s).rxAddr = s.rxAddr := rfl
@[simp] theorem idleCycle_rxLen (s : State) : (idleCycle s).rxLen = s.rxLen := rfl
@[simp] theorem idleCycle_rxErr (s : State) : (idleCycle s).rxErr = s.rxErr := rfl
@[simp] theorem idleCycle_rxCsum (s : State) : (idleCycle s).rxCsum = s.rxCsum := rfl
@[simp] theorem idleCycle_rxCalc (s : State) : (idleCycle s).rxCalc = s.rxCalc := rfl
@[simp] theorem idleCycle_rxCnt (s : State) : (idleCycle s).rxCnt = s.rxCnt := rfl
@[simp] theorem idleCycle_txCsum (s : State) : (idleCycle s).txCsum = s.txCsum := rfl
@[simp] theorem idleCycle_idx (s : State) : (idleCycle s).idx = s.idx := rfl
@[simp] theorem idleCycle_acc (s : State) : (idleCycle s).acc = s.acc := rfl
@[simp] theorem idleCycle_m1 (s : State) : (idleCycle s).m1 = s.m1 := rfl
@[simp] theorem idleCycle_tmr (s : State) : (idleCycle s).tmr = s.tmr := rfl
@[simp] theorem idleCycle_abrt (s : State) : (idleCycle s).abrt = s.abrt := rfl
@[simp] theorem idleCycle_mem (s : State) : (idleCycle s).mem = s.mem := rfl
@[simp] theorem idleCycle_hRData (s : State) : (idleCycle s).hRData = none := rfl
@[simp] theorem idleCycle_sent (s : State) : (idleCycle s).sent = s.sent := rfl
@[simp] theorem idleCycle_inputs (s : State) : (idleCycle s).inputs = s.inputs := rfl

/-! ### `setRxBuf` (R198) -/

@[simp] theorem setRxBuf_phase (i : Nat) (v : Byte) (s : State) : (setRxBuf i v s).phase = s.phase := by
  unfold setRxBuf; split <;> rfl
@[simp] theorem setRxBuf_cfg (i : Nat) (v : Byte) (s : State) : (setRxBuf i v s).cfg = s.cfg := by
  unfold setRxBuf; split <;> rfl
@[simp] theorem setRxBuf_txAddr (i : Nat) (v : Byte) (s : State) : (setRxBuf i v s).txAddr = s.txAddr := by
  unfold setRxBuf; split <;> rfl
@[simp] theorem setRxBuf_txOpc (i : Nat) (v : Byte) (s : State) : (setRxBuf i v s).txOpc = s.txOpc := by
  unfold setRxBuf; split <;> rfl
@[simp] theorem setRxBuf_txLen (i : Nat) (v : Byte) (s : State) : (setRxBuf i v s).txLen = s.txLen := by
  unfold setRxBuf; split <;> rfl
@[simp] theorem setRxBuf_timeoutLo (i : Nat) (v : Byte) (s : State) : (setRxBuf i v s).timeoutLo = s.timeoutLo := by
  unfold setRxBuf; split <;> rfl
@[simp] theorem setRxBuf_timeoutHi (i : Nat) (v : Byte) (s : State) : (setRxBuf i v s).timeoutHi = s.timeoutHi := by
  unfold setRxBuf; split <;> rfl
@[simp] theorem setRxBuf_done (i : Nat) (v : Byte) (s : State) : (setRxBuf i v s).done = s.done := by
  unfold setRxBuf; split <;> rfl
@[simp] theorem setRxBuf_deverr (i : Nat) (v : Byte) (s : State) : (setRxBuf i v s).deverr = s.deverr := by
  unfold setRxBuf; split <;> rfl
@[simp] theorem setRxBuf_rej (i : Nat) (v : Byte) (s : State) : (setRxBuf i v s).rej = s.rej := by
  unfold setRxBuf; split <;> rfl
@[simp] theorem setRxBuf_faultCode (i : Nat) (v : Byte) (s : State) : (setRxBuf i v s).faultCode = s.faultCode := by
  unfold setRxBuf; split <;> rfl
@[simp] theorem setRxBuf_faultPhase (i : Nat) (v : Byte) (s : State) : (setRxBuf i v s).faultPhase = s.faultPhase := by
  unfold setRxBuf; split <;> rfl
@[simp] theorem setRxBuf_rxAddr (i : Nat) (v : Byte) (s : State) : (setRxBuf i v s).rxAddr = s.rxAddr := by
  unfold setRxBuf; split <;> rfl
@[simp] theorem setRxBuf_rxLen (i : Nat) (v : Byte) (s : State) : (setRxBuf i v s).rxLen = s.rxLen := by
  unfold setRxBuf; split <;> rfl
@[simp] theorem setRxBuf_rxErr (i : Nat) (v : Byte) (s : State) : (setRxBuf i v s).rxErr = s.rxErr := by
  unfold setRxBuf; split <;> rfl
@[simp] theorem setRxBuf_rxCsum (i : Nat) (v : Byte) (s : State) : (setRxBuf i v s).rxCsum = s.rxCsum := by
  unfold setRxBuf; split <;> rfl
@[simp] theorem setRxBuf_rxCalc (i : Nat) (v : Byte) (s : State) : (setRxBuf i v s).rxCalc = s.rxCalc := by
  unfold setRxBuf; split <;> rfl
@[simp] theorem setRxBuf_rxCnt (i : Nat) (v : Byte) (s : State) : (setRxBuf i v s).rxCnt = s.rxCnt := by
  unfold setRxBuf; split <;> rfl
@[simp] theorem setRxBuf_txCsum (i : Nat) (v : Byte) (s : State) : (setRxBuf i v s).txCsum = s.txCsum := by
  unfold setRxBuf; split <;> rfl
@[simp] theorem setRxBuf_idx (i : Nat) (v : Byte) (s : State) : (setRxBuf i v s).idx = s.idx := by
  unfold setRxBuf; split <;> rfl
@[simp] theorem setRxBuf_acc (i : Nat) (v : Byte) (s : State) : (setRxBuf i v s).acc = s.acc := by
  unfold setRxBuf; split <;> rfl
@[simp] theorem setRxBuf_m1 (i : Nat) (v : Byte) (s : State) : (setRxBuf i v s).m1 = s.m1 := by
  unfold setRxBuf; split <;> rfl
@[simp] theorem setRxBuf_tmr (i : Nat) (v : Byte) (s : State) : (setRxBuf i v s).tmr = s.tmr := by
  unfold setRxBuf; split <;> rfl
@[simp] theorem setRxBuf_abrt (i : Nat) (v : Byte) (s : State) : (setRxBuf i v s).abrt = s.abrt := by
  unfold setRxBuf; split <;> rfl
@[simp] theorem setRxBuf_hRData (i : Nat) (v : Byte) (s : State) : (setRxBuf i v s).hRData = s.hRData := by
  unfold setRxBuf; split <;> rfl
@[simp] theorem setRxBuf_sent (i : Nat) (v : Byte) (s : State) : (setRxBuf i v s).sent = s.sent := by
  unfold setRxBuf; split <;> rfl
@[simp] theorem setRxBuf_inputs (i : Nat) (v : Byte) (s : State) : (setRxBuf i v s).inputs = s.inputs := by
  unfold setRxBuf; split <;> rfl

theorem setRxBuf_mem {i : Nat} (h : i < 253) (v : Byte) (s : State) :
    (setRxBuf i v s).mem = Memory.write s.mem (rxBufAddr i) v := by
  simp [setRxBuf, Config.maxPayload, h]

/-! ### `uartTakes` (R264): the wire's record, and nothing else -/

@[simp] theorem uartTakes_phase (c : Cycle) (s t : State) : (uartTakes c s t).phase = t.phase := by
  unfold uartTakes; split <;> rfl
@[simp] theorem uartTakes_cfg (c : Cycle) (s t : State) : (uartTakes c s t).cfg = t.cfg := by
  unfold uartTakes; split <;> rfl
@[simp] theorem uartTakes_txAddr (c : Cycle) (s t : State) : (uartTakes c s t).txAddr = t.txAddr := by
  unfold uartTakes; split <;> rfl
@[simp] theorem uartTakes_txOpc (c : Cycle) (s t : State) : (uartTakes c s t).txOpc = t.txOpc := by
  unfold uartTakes; split <;> rfl
@[simp] theorem uartTakes_txLen (c : Cycle) (s t : State) : (uartTakes c s t).txLen = t.txLen := by
  unfold uartTakes; split <;> rfl
@[simp] theorem uartTakes_timeoutLo (c : Cycle) (s t : State) : (uartTakes c s t).timeoutLo = t.timeoutLo := by
  unfold uartTakes; split <;> rfl
@[simp] theorem uartTakes_timeoutHi (c : Cycle) (s t : State) : (uartTakes c s t).timeoutHi = t.timeoutHi := by
  unfold uartTakes; split <;> rfl
@[simp] theorem uartTakes_done (c : Cycle) (s t : State) : (uartTakes c s t).done = t.done := by
  unfold uartTakes; split <;> rfl
@[simp] theorem uartTakes_deverr (c : Cycle) (s t : State) : (uartTakes c s t).deverr = t.deverr := by
  unfold uartTakes; split <;> rfl
@[simp] theorem uartTakes_rej (c : Cycle) (s t : State) : (uartTakes c s t).rej = t.rej := by
  unfold uartTakes; split <;> rfl
@[simp] theorem uartTakes_faultCode (c : Cycle) (s t : State) : (uartTakes c s t).faultCode = t.faultCode := by
  unfold uartTakes; split <;> rfl
@[simp] theorem uartTakes_faultPhase (c : Cycle) (s t : State) : (uartTakes c s t).faultPhase = t.faultPhase := by
  unfold uartTakes; split <;> rfl
@[simp] theorem uartTakes_rxAddr (c : Cycle) (s t : State) : (uartTakes c s t).rxAddr = t.rxAddr := by
  unfold uartTakes; split <;> rfl
@[simp] theorem uartTakes_rxLen (c : Cycle) (s t : State) : (uartTakes c s t).rxLen = t.rxLen := by
  unfold uartTakes; split <;> rfl
@[simp] theorem uartTakes_rxErr (c : Cycle) (s t : State) : (uartTakes c s t).rxErr = t.rxErr := by
  unfold uartTakes; split <;> rfl
@[simp] theorem uartTakes_rxCsum (c : Cycle) (s t : State) : (uartTakes c s t).rxCsum = t.rxCsum := by
  unfold uartTakes; split <;> rfl
@[simp] theorem uartTakes_rxCalc (c : Cycle) (s t : State) : (uartTakes c s t).rxCalc = t.rxCalc := by
  unfold uartTakes; split <;> rfl
@[simp] theorem uartTakes_rxCnt (c : Cycle) (s t : State) : (uartTakes c s t).rxCnt = t.rxCnt := by
  unfold uartTakes; split <;> rfl
@[simp] theorem uartTakes_txCsum (c : Cycle) (s t : State) : (uartTakes c s t).txCsum = t.txCsum := by
  unfold uartTakes; split <;> rfl
@[simp] theorem uartTakes_idx (c : Cycle) (s t : State) : (uartTakes c s t).idx = t.idx := by
  unfold uartTakes; split <;> rfl
@[simp] theorem uartTakes_acc (c : Cycle) (s t : State) : (uartTakes c s t).acc = t.acc := by
  unfold uartTakes; split <;> rfl
@[simp] theorem uartTakes_m1 (c : Cycle) (s t : State) : (uartTakes c s t).m1 = t.m1 := by
  unfold uartTakes; split <;> rfl
@[simp] theorem uartTakes_tmr (c : Cycle) (s t : State) : (uartTakes c s t).tmr = t.tmr := by
  unfold uartTakes; split <;> rfl
@[simp] theorem uartTakes_abrt (c : Cycle) (s t : State) : (uartTakes c s t).abrt = t.abrt := by
  unfold uartTakes; split <;> rfl
@[simp] theorem uartTakes_mem (c : Cycle) (s t : State) : (uartTakes c s t).mem = t.mem := by
  unfold uartTakes; split <;> rfl
@[simp] theorem uartTakes_hRData (c : Cycle) (s t : State) : (uartTakes c s t).hRData = t.hRData := by
  unfold uartTakes; split <;> rfl
@[simp] theorem uartTakes_inputs (c : Cycle) (s t : State) : (uartTakes c s t).inputs = t.inputs := by
  unfold uartTakes; split <;> rfl

/-- All it can change is the wire's record. -/
theorem uartTakes_with (c : Cycle) (s t : State) : uartTakes c s t = { t with sent := (uartTakes c s t).sent } := by
  unfold uartTakes; split <;> rfl

theorem uartTakes_sent (c : Cycle) (s t : State) :
    (uartTakes c s t).sent = if c.txAck && s.txValid then s.sent ++ [s.txData] else t.sent := by
  unfold uartTakes; split <;> rfl

/-- Where the UART takes nothing, or its record already has the byte, nothing changes. -/
theorem uartTakes_eq {c : Cycle} {s t : State} (h : c.txAck = true → s.txValid = true → t.sent = s.sent ++ [s.txData]) :
    uartTakes c s t = t := by
  unfold uartTakes
  split
  · next hc => rw [Bool.and_eq_true] at hc; rw [← h hc.1 hc.2]
  · rfl

/-! ### Computed values depend only on what they read -/

theorem txPayload_congr {s t : State} (hm : t.mem = s.mem) (hl : t.txLen = s.txLen) : t.txPayload = s.txPayload := by
  simp [State.txPayload, State.txBuf, hm, hl]

theorem rxPayload_congr {s t : State} (hm : t.mem = s.mem) (hc : t.rxCnt = s.rxCnt) : t.rxPayload = s.rxPayload := by
  simp [State.rxPayload, State.rxBuf, hm, hc]

theorem frameChecksum_congr {s t : State} (hm : t.mem = s.mem) (ha : t.txAddr = s.txAddr) (ho : t.txOpc = s.txOpc)
    (hl : t.txLen = s.txLen) : frameChecksum t = frameChecksum s := by
  simp [frameChecksum, txPayload_congr hm hl, ha, ho, hl]

end Sys2Proof.Machine
end

