-- ==== Sys2Proof/Laws/Memory.lean ====
section
/-! SUPPORT. The buffers' memory: a read after a write, locality, and the canonical form kept by every operation. -/

namespace Sys2Proof.Machine

theorem Memory.lookup_write (m : Memory) (a b : Nat) (v : Byte) :
    Memory.lookup (Memory.write m a v) b = if b = a then some v else Memory.lookup m b := by
  induction m with
  | nil => simp [Memory.write, Memory.lookup, eq_comm]
  | cons c m ih =>
    obtain ⟨k, w⟩ := c
    unfold Memory.write
    split
    · by_cases h : a = b <;> simp [Memory.lookup, h, eq_comm]
    · split
      · next h => subst h; by_cases h : a = b <;> simp [Memory.lookup, h, eq_comm]
      · next h =>
        by_cases hb : k = b
        · subst hb; simp [Memory.lookup, Ne.symm h]
        · simp [Memory.lookup, hb, ih]

theorem Memory.byteAt_write (m : Memory) (a b : Nat) (v : Byte) :
    Memory.byteAt (Memory.write m a v) b = if b = a then v else Memory.byteAt m b := by
  unfold Memory.byteAt
  rw [Memory.lookup_write]
  split <;> simp

@[simp] theorem Memory.byteAt_write_same (m : Memory) (a : Nat) (v : Byte) :
    Memory.byteAt (Memory.write m a v) a = v := by simp [Memory.byteAt_write]

theorem Memory.byteAt_write_other (m : Memory) {a b : Nat} (h : b ≠ a) (v : Byte) :
    Memory.byteAt (Memory.write m a v) b = Memory.byteAt m b := by simp [Memory.byteAt_write, h]

/-- Every address of a written memory is the one written or one listed before. -/
theorem Memory.mem_write {m : Memory} {a : Nat} {v : Byte} {c : Host.Cell} (h : c ∈ Memory.write m a v) :
    c = (a, v) ∨ c ∈ m := by
  induction m with
  | nil => simpa [Memory.write] using h
  | cons d m ih =>
    obtain ⟨k, w⟩ := d
    unfold Memory.write at h
    split at h
    · simpa using h
    · split at h
      · rcases List.mem_cons.1 h with h | h
        · exact .inl h
        · exact .inr (List.mem_cons_of_mem _ h)
      · rcases List.mem_cons.1 h with h | h
        · exact .inr (by simp [h])
        · exact (ih h).imp id (List.mem_cons_of_mem _)

/-- The canonical form, one cell at a time. -/
theorem Memory.wf_cons {k : Nat} {w : Byte} {m : Memory} :
    Memory.wf ((k, w) :: m) = true ↔ (∀ c ∈ m, k < c.1) ∧ Memory.wf m = true := by
  induction m generalizing k w with
  | nil => simp [Memory.wf]
  | cons d m ih =>
    obtain ⟨j, x⟩ := d
    rw [Memory.wf, Bool.and_eq_true, decide_eq_true_eq, ih]
    constructor
    · rintro ⟨hk, hj, hm⟩
      exact ⟨fun c hc => (List.mem_cons.1 hc).elim (fun e => by simpa [e] using hk) fun h => hk.trans (hj c h), hj, hm⟩
    · rintro ⟨hk, hm⟩
      exact ⟨hk (j, x) (by simp), hm⟩

/-- A write keeps the canonical form. -/
theorem Memory.wf_write {m : Memory} (h : Memory.wf m = true) (a : Nat) (v : Byte) :
    Memory.wf (Memory.write m a v) = true := by
  induction m with
  | nil => rfl
  | cons d m ih =>
    obtain ⟨k, w⟩ := d
    have hkm := Memory.wf_cons.1 h
    unfold Memory.write
    split
    · next ha =>
      exact Memory.wf_cons.2
        ⟨fun c hc => (List.mem_cons.1 hc).elim (fun e => by simpa [e] using ha) fun hm => ha.trans (hkm.1 c hm), h⟩
    · split
      · next he => subst he; exact Memory.wf_cons.2 hkm
      · refine Memory.wf_cons.2 ⟨fun c hc => ?_, ih hkm.2⟩
        rcases Memory.mem_write hc with rfl | hm
        · simp only; omega
        · exact hkm.1 c hm

theorem setTxBuf_wf {s : State} (h : Memory.wf s.mem = true) (i : Nat) (v : Byte) :
    Memory.wf (setTxBuf i v s).mem = true := Memory.wf_write h _ _

theorem setRxBuf_wf {s : State} (h : Memory.wf s.mem = true) (i : Nat) (v : Byte) :
    Memory.wf (setRxBuf i v s).mem = true := by
  unfold setRxBuf
  split
  · exact Memory.wf_write h _ _
  · exact h

@[simp] theorem reset_mem_wf : Memory.wf State.reset.mem = true := rfl

/-- Writing a TX_BUF byte: it, and no other buffer byte, changes. -/
theorem setTxBuf_byteAt (i a : Nat) (v : Byte) (s : State) :
    Memory.byteAt (setTxBuf i v s).mem a = if a = txBufAddr i then v else Memory.byteAt s.mem a :=
  Memory.byteAt_write _ _ _ _

/-- Writing an RX_BUF byte: it, and no other buffer byte, changes. -/
theorem setRxBuf_byteAt {i : Nat} (h : i < 253) (a : Nat) (v : Byte) (s : State) :
    Memory.byteAt (setRxBuf i v s).mem a = if a = rxBufAddr i then v else Memory.byteAt s.mem a := by
  rw [setRxBuf_mem h, Memory.byteAt_write]

/-- A write to RX_BUF leaves every byte below its addresses alone. -/
theorem setRxBuf_byteAt_low {i a : Nat} (ha : a < 0x200) (v : Byte) (s : State) :
    Memory.byteAt (setRxBuf i v s).mem a = Memory.byteAt s.mem a := by
  unfold setRxBuf
  split
  · exact Memory.byteAt_write_other _ (by unfold rxBufAddr; omega) _
  · rfl

end Sys2Proof.Machine
end

