-- ==== Sys2Proof/Laws/Events.lean ====
section
/-! SUPPORT. What each bus event can do, once: the fields it leaves alone, and the case it takes by phase. -/

namespace Sys2Proof.Machine

/-- What no bus event touches: the settings and TX fields, REJ, TX_CSUM, TX_BUF, and the host's side. -/
structure BusFrame (s t : State) : Prop where
  cfg       : t.cfg = s.cfg
  txAddr    : t.txAddr = s.txAddr
  txOpc     : t.txOpc = s.txOpc
  txLen     : t.txLen = s.txLen
  timeoutLo : t.timeoutLo = s.timeoutLo
  timeoutHi : t.timeoutHi = s.timeoutHi
  rej       : t.rej = s.rej
  txCsum    : t.txCsum = s.txCsum
  hRData    : t.hRData = s.hRData
  inputs    : t.inputs = s.inputs
  low       : ∀ a, a < 0x200 → Memory.byteAt t.mem a = Memory.byteAt s.mem a

theorem BusFrame.refl (s : State) : BusFrame s s := by constructor <;> simp

theorem BusFrame.trans {s t u : State} (h : BusFrame s t) (k : BusFrame t u) : BusFrame s u where
  cfg := k.cfg.trans h.cfg
  txAddr := k.txAddr.trans h.txAddr
  txOpc := k.txOpc.trans h.txOpc
  txLen := k.txLen.trans h.txLen
  timeoutLo := k.timeoutLo.trans h.timeoutLo
  timeoutHi := k.timeoutHi.trans h.timeoutHi
  rej := k.rej.trans h.rej
  txCsum := k.txCsum.trans h.txCsum
  hRData := k.hRData.trans h.hRData
  inputs := k.inputs.trans h.inputs
  low := fun a ha => (k.low a ha).trans (h.low a ha)

theorem onTxAccept_frame (s : State) : BusFrame s (onTxAccept s) := by
  unfold onTxAccept; split <;> [split; skip] <;> constructor <;> simp

theorem onTxIdle_frame (s : State) : BusFrame s (onTxIdle s) := by
  unfold onTxIdle
  split
  · split
    · constructor <;> simp
    · split <;> constructor <;> simp
  · exact .refl s

theorem onTick_frame (s : State) : BusFrame s (onTick s) := by
  unfold onTick; split <;> [split; skip] <;> constructor <;> simp

theorem rxPayByte_frame (b : Byte) (s : State) : BusFrame s (rxPayByte b s) := by
  constructor <;> first | exact fun a ha => setRxBuf_byteAt_low ha _ _ | simp [rxPayByte]

theorem onRxByte_frame (b : Byte) (s : State) : BusFrame s (onRxByte b s) := by
  unfold onRxByte
  split
  · exact .refl s
  · exact .refl s
  · exact .refl s
  · constructor <;> simp [rxM1Byte]
  · unfold rxM2Byte; split <;> constructor <;> simp
  · unfold rxAddrByte; split <;> constructor <;> simp
  · unfold rxLenByte; split <;> constructor <;> simp
  · constructor <;> simp [rxErrByte]
  · exact rxPayByte_frame b s
  · unfold rxCsumByte; split <;> constructor <;> simp

/-! ### The case an event takes, by phase -/

theorem onTxAccept_of_ne {s : State} (h : s.phase ≠ .tx) : onTxAccept s = s := by simp [onTxAccept, h]

theorem onTxIdle_of_ne {s : State} (h : s.phase ≠ .turn) : onTxIdle s = s := by simp [onTxIdle, h]

theorem onTick_of_not_rx {s : State} (h : s.phase.isRx = false) : onTick s = s := by simp [onTick, h]

theorem onRxByte_of_not_rx {s : State} (h : s.phase.isRx = false) (b : Byte) : onRxByte b s = s := by
  revert h
  cases hp : s.phase <;> simp [Phase.isRx, Phase.code, onRxByte, hp]

theorem onRxByte_rxM1 {s : State} (h : s.phase = .rxM1) (b : Byte) : onRxByte b s = rxM1Byte b s := by
  simp [onRxByte, h]

theorem onRxByte_rxM2 {s : State} (h : s.phase = .rxM2) (b : Byte) : onRxByte b s = rxM2Byte b s := by
  simp [onRxByte, h]

theorem onRxByte_rxAddr {s : State} (h : s.phase = .rxAddr) (b : Byte) : onRxByte b s = rxAddrByte b s := by
  simp [onRxByte, h]

theorem onRxByte_rxLen {s : State} (h : s.phase = .rxLen) (b : Byte) : onRxByte b s = rxLenByte b s := by
  simp [onRxByte, h]

theorem onRxByte_rxErr {s : State} (h : s.phase = .rxErr) (b : Byte) : onRxByte b s = rxErrByte b s := by
  simp [onRxByte, h]

theorem onRxByte_rxPay {s : State} (h : s.phase = .rxPay) (b : Byte) : onRxByte b s = rxPayByte b s := by
  simp [onRxByte, h]

theorem onRxByte_rxCsum {s : State} (h : s.phase = .rxCsum) (b : Byte) : onRxByte b s = rxCsumByte b s := by
  simp [onRxByte, h]

/-! ### Runs of bytes -/

theorem takeBytes_nil (s : State) : takeBytes [] s = s := rfl

theorem takeBytes_cons (b : Byte) (bs : List Byte) (s : State) :
    takeBytes (b :: bs) s = takeBytes bs (onTxAccept s) := rfl

theorem deliverBytes_nil (s : State) : deliverBytes [] s = s := rfl

theorem deliverBytes_cons (b : Byte) (bs : List Byte) (s : State) :
    deliverBytes (b :: bs) s = deliverBytes bs (onRxByte b s) := rfl

theorem deliverBytes_append (as bs : List Byte) (s : State) :
    deliverBytes (as ++ bs) s = deliverBytes bs (deliverBytes as s) := by
  simp [deliverBytes]

/-- Outside TX the UART takes nothing (R166). -/
theorem takeBytes_of_ne {s : State} (h : s.phase ≠ .tx) (bs : List Byte) : takeBytes bs s = s := by
  induction bs with
  | nil => rfl
  | cons b bs ih => rw [takeBytes_cons, onTxAccept_of_ne h, ih]

/-- Outside the RX phases every byte is dropped (R254). -/
theorem deliverBytes_of_not_rx {s : State} (h : s.phase.isRx = false) (bs : List Byte) : deliverBytes bs s = s := by
  induction bs with
  | nil => rfl
  | cons b bs ih => rw [deliverBytes_cons, onRxByte_of_not_rx h, ih]

theorem takeBytes_frame (bs : List Byte) (s : State) : BusFrame s (takeBytes bs s) := by
  induction bs generalizing s with
  | nil => exact .refl s
  | cons b bs ih => exact (onTxAccept_frame s).trans (ih _)

theorem deliverBytes_frame (bs : List Byte) (s : State) : BusFrame s (deliverBytes bs s) := by
  induction bs generalizing s with
  | nil => exact .refl s
  | cons b bs ih => exact (onRxByte_frame b s).trans (ih _)

theorem takeFrame_frame (f : Frame) (s : State) : BusFrame s (takeFrame f s) := by
  unfold takeFrame; split
  · exact .refl s
  · exact takeBytes_frame _ s

/-! ### The wire's record -/

theorem onRxByte_sent (b : Byte) (s : State) : (onRxByte b s).sent = s.sent := by
  unfold onRxByte
  split
  · rfl
  · rfl
  · rfl
  · rfl
  · unfold rxM2Byte; split <;> rfl
  · unfold rxAddrByte; split <;> rfl
  · unfold rxLenByte; split <;> rfl
  · rfl
  · simp [rxPayByte]
  · unfold rxCsumByte; split <;> rfl

theorem onTxIdle_sent (s : State) : (onTxIdle s).sent = s.sent := by
  unfold onTxIdle; split
  · split
    · rfl
    · split <;> rfl
  · rfl

theorem onTick_sent (s : State) : (onTick s).sent = s.sent := by
  unfold onTick; split <;> [split; skip] <;> rfl

theorem ifLine_sent {f : State → State} (hf : ∀ s, (f s).sent = s.sent) (line : Bool) (s : State) :
    (ifLine line f s).sent = s.sent := by
  unfold ifLine; split
  · exact hf s
  · rfl

/-- What a `TxAccept` in TX records: TX_DATA (R56, R165). -/
theorem onTxAccept_sent {s : State} (h : s.phase = .tx) : (onTxAccept s).sent = s.sent ++ [s.txData] := by
  unfold onTxAccept State.txData State.txValid
  rw [if_pos h, if_pos (decide_eq_true h)]
  split <;> rfl

/-- A received byte never leads into TX (R250). -/
theorem onRxByte_ne_tx {s : State} (h : s.phase ≠ .tx) (b : Byte) : (onRxByte b s).phase ≠ .tx := by
  unfold onRxByte
  split
  · exact h
  · exact h
  · exact h
  · exact (by decide : Phase.rxM2 ≠ .tx)
  · unfold rxM2Byte; split <;> simp
  · unfold rxAddrByte; split <;> simp
  · unfold rxLenByte; split <;> simp
  · unfold rxErrByte; dsimp only; split <;> decide
  · unfold rxPayByte; dsimp only; split <;> decide
  · unfold rxCsumByte; split <;> simp

/-! ### The bus events of a cycle -/

theorem ifLine_frame {f : State → State} (hf : ∀ s, BusFrame s (f s)) (line : Bool) (s : State) :
    BusFrame s (ifLine line f s) := by
  unfold ifLine; split
  · exact hf s
  · exact .refl s

theorem ifReceived_frame (rx : Option Byte) (s : State) : BusFrame s (ifReceived rx s) := by
  cases rx
  · exact .refl s
  · exact onRxByte_frame _ s

theorem busEvents_frame (c : Cycle) (s : State) : BusFrame s (busEvents c s) :=
  (((ifReceived_frame _ _).trans (ifLine_frame onTxAccept_frame _ _)).trans (ifLine_frame onTxIdle_frame _ _)).trans
    (ifLine_frame onTick_frame _ _)

/-- Of a cycle's bus events only `TxAccept` adds to the wire's record. -/
theorem busEvents_sent (c : Cycle) (s : State) :
    (busEvents c s).sent = (ifLine c.txAck onTxAccept (ifReceived c.rx s)).sent :=
  (ifLine_sent onTick_sent _ _).trans (ifLine_sent onTxIdle_sent _ _)

/-- In TX a cycle's `TxAccept` records TX_DATA. -/
theorem busEvents_sent_of_tx {s : State} (c : Cycle) (h : s.phase = .tx) :
    (busEvents c s).sent = if c.txAck then s.sent ++ [s.txData] else s.sent := by
  have hr : ifReceived c.rx s = s := by
    cases c.rx with
    | none => rfl
    | some b => exact onRxByte_of_not_rx (by rw [h]; rfl) b
  rw [busEvents_sent, hr, ifLine]
  split
  · exact onTxAccept_sent h
  · rfl

theorem uartTakes_frame {s t : State} (c : Cycle) (s0 : State) (h : BusFrame s t) : BusFrame s (uartTakes c s0 t) :=
  h.trans (by constructor <;> simp)

/-- Outside TX no `TxAccept` has an effect, so the wire's record grows only in TX (R166). -/
theorem busEvents_sent_of_ne {s : State} (c : Cycle) (h : s.phase ≠ .tx) : (busEvents c s).sent = s.sent := by
  have hr : (ifReceived c.rx s).sent = s.sent ∧ (ifReceived c.rx s).phase ≠ .tx := by
    cases c.rx with
    | none => exact ⟨rfl, h⟩
    | some b => exact ⟨onRxByte_sent b s, onRxByte_ne_tx h b⟩
  rw [busEvents_sent, ifLine]
  split
  · rw [onTxAccept_of_ne hr.2, hr.1]
  · exact hr.1

/-! ### `sum8` -/

theorem sum8_append (as bs : List Byte) : sum8 (as ++ bs) = sum8 as + sum8 bs := by
  induction as with
  | nil => simp [sum8]
  | cons a as ih => simp [sum8, ih, BitVec.add_assoc]

end Sys2Proof.Machine
end

