-- ==== Sys2Proof/Laws/Step.lean ====
section
/-! SUPPORT. What a step that answers a next state can have done, once. -/

namespace Sys2Proof.Machine

/-- Decoding a word made from its fields. -/
theorem decodeHost_encodeHost (w : Bool) (a : HostAddr) (d : Byte) :
    decodeHost (encodeHost w a d) =
      if w then (if a = 0 then .ok (decodeCommand d) else .ok (.hostWr a d)) else .ok (.hostRd a) := by
  unfold decodeHost
  rw [encodeHost_bit18, encodeHost_isWrite, encodeHost_addr, encodeHost_data]
  simp

/-- The three ways a host word decodes: a command, a write elsewhere, a read. -/
theorem decodeHost_cases {w : HostWord} {i : Instr} (h : decodeHost w = .ok i) :
    w = encodeHost w.isWrite w.addr w.data ∧
      (w.isWrite = true ∧ w.addr = 0 ∧ i = decodeCommand w.data ∨
        w.isWrite = true ∧ w.addr ≠ 0 ∧ i = .hostWr w.addr w.data ∨ w.isWrite = false ∧ i = .hostRd w.addr) := by
  unfold decodeHost at h
  split at h
  · cases h
  · next h18 =>
    refine ⟨(encodeHost_fields (by simpa using h18)).symm, ?_⟩
    split at h
    · next hw =>
      split at h
      · next ha => cases h; exact .inl ⟨hw, ha, rfl⟩
      · next ha => cases h; exact .inr (.inl ⟨hw, ha, rfl⟩)
    · next hw => cases h; exact .inr (.inr ⟨by simpa using hw, rfl⟩)

/-- The command a data byte selects is run as R130 dispatches it. -/
theorem exec_decodeCommand (d : Byte) (s : State) : exec (decodeCommand d) s = .next (issueCommand d s) := by
  unfold decodeCommand
  split_ifs with h0 h1 h2 h3
  · subst h0; rfl
  · subst h1; rfl
  · subst h2; rfl
  · subst h3; rfl
  · rfl

/-- A host word runs as one host write or one host read. -/
theorem exec_decodeHost {w : HostWord} {i : Instr} {s : State} (h : decodeHost w = .ok i) :
    w = encodeHost true w.addr w.data ∧ exec i s = .next (hostWrite w.addr w.data s) ∨
      exec i s = .next { s with hRData := some (hostRead s w.addr) } := by
  obtain ⟨he, ⟨hw, ha, rfl⟩ | ⟨hw, -, rfl⟩ | ⟨-, rfl⟩⟩ := decodeHost_cases h
  · rw [hw] at he
    exact .inl ⟨he, by rw [exec_decodeCommand, ha]; rfl⟩
  · rw [hw] at he
    exact .inl ⟨he, rfl⟩
  · exact .inr rfl

/-- Every instruction frame runs as the UART taking it. -/
theorem exec_instrOfFrame (f : Frame) (s : State) : exec (instrOfFrame f) s = .next (takeFrame f s) := by
  obtain ⟨addr, len, code, body⟩ := f
  unfold instrOfFrame
  simp only
  split_ifs with h1 h2 h3 h4 h5
  · subst h1; rfl
  · subst h2; rfl
  · subst h3; rfl
  · subst h4; rfl
  · subst h5; rfl
  · rfl

/-- A code that runs bytes as a frame decodes through that frame. -/
theorem map_ok {bytes : List Byte} {f : Frame → Instr} {i : Instr} (h : (decodeFrame bytes).map f = .ok i) :
    ∃ fr, decodeFrame bytes = .ok fr ∧ i = f fr := by
  cases hf : decodeFrame bytes with
  | error e => rw [hf] at h; cases h
  | ok fr => rw [hf] at h; cases h; exact ⟨fr, rfl, rfl⟩

/-- What a host write does while the block is in TX: nothing, a rejection, or an ABORT (R134, R138). -/
theorem hostWrite_of_tx {s : State} (h : s.phase = .tx) (a : HostAddr) (d : Byte) :
    hostWrite a d s = s ∨ hostWrite a d s = reject s ∨ hostWrite a d s = abortCommand s := by
  have hp : s.phase ≠ .idle := by rw [h]; decide
  unfold hostWrite writeLoc
  split
  all_goals first
    | exact .inl rfl
    | (unfold writeRw; rw [if_neg hp]; exact .inr (.inl rfl))
    | skip
  unfold issueCommand startCommand clearCommand
  rw [if_neg hp, if_neg hp]
  split_ifs
  · exact .inr (.inl rfl)
  · exact .inr (.inr rfl)
  · exact .inr (.inl rfl)
  · exact .inl rfl
  · exact .inr (.inl rfl)

/-- A host write adds nothing to the wire's record. -/
theorem hostWrite_sent (a : HostAddr) (d : Byte) (s : State) : (hostWrite a d s).sent = s.sent := by
  unfold hostWrite writeLoc
  split
  all_goals first
    | rfl
    | (unfold writeRw; split <;> rfl)
    | skip
  unfold issueCommand startCommand clearCommand abortCommand
  split_ifs <;> first | rfl | (split <;> rfl)

/-- Where no ABORT or Reset takes the block out of TX first, `TxAccept` has recorded what the UART takes (R165). -/
theorem uartTakes_busEvents {s t : State} (c : Cycle) (hp : s.phase = .tx → t.phase = .tx) (hs : t.sent = s.sent)
    (hd : t.txData = s.txData) : uartTakes c s (busEvents c t) = busEvents c t :=
  uartTakes_eq fun ha hv => by rw [busEvents_sent_of_tx c (hp (of_decide_eq_true hv)), if_pos ha, hs, hd]

/-- Everything a step that answers a next state can have done. -/
theorem step_next_cases {s t : State} (h : step s = .next t) :
    (s.inputs = [] ∧ t = idleCycle s) ∨
    (∃ c rest, s.inputs = .cycle c :: rest ∧ c.rst = true ∧
      t = uartTakes c (takeInput rest s) (resetCycle c (takeInput rest s))) ∨
    (∃ c rest, s.inputs = .cycle c :: rest ∧ c.rst = false ∧ c.host = none ∧
      t = uartTakes c (takeInput rest s) (busEvents c (takeInput rest s))) ∨
    (∃ c rest w, s.inputs = .cycle c :: rest ∧ c.rst = false ∧ c.host = some w ∧ w = encodeHost true w.addr w.data ∧
      t = uartTakes c (takeInput rest s) (busEvents c (hostWrite w.addr w.data (takeInput rest s)))) ∨
    (∃ c rest w, s.inputs = .cycle c :: rest ∧ c.rst = false ∧ c.host = some w ∧
      t = uartTakes c (takeInput rest s)
        (busEvents c { takeInput rest s with hRData := some (hostRead (takeInput rest s) w.addr) })) ∨
    (∃ bytes rest f, s.inputs = .instrFrame bytes :: rest ∧ decodeFrame bytes = .ok f ∧
      t = takeFrame f (takeInput rest s)) ∨
    (∃ bytes rest f, s.inputs = .statusFrame bytes :: rest ∧ decodeFrame bytes = .ok f ∧
      t = deliverBytes f.bytes (takeInput rest s)) := by
  unfold step at h
  split at h
  · next hi => cases h; exact .inl ⟨hi, rfl⟩
  next i rest hi =>
  cases i with
  | cycle c =>
    simp only [runInput, runCycle] at h
    split at h
    · next hr => cases h; exact .inr (.inl ⟨c, rest, hi, hr, rfl⟩)
    next hr =>
    simp only [Bool.not_eq_true] at hr
    split at h
    · next w hw =>
      unfold runCode at h
      split at h
      · next i hd =>
        rcases exec_decodeHost (s := takeInput rest s) hd with ⟨h1, h2⟩ | h2 <;> rw [h2] at h <;> cases h
        · exact .inr (.inr (.inr (.inl ⟨c, rest, w, hi, hr, hw, h1, rfl⟩)))
        · exact .inr (.inr (.inr (.inr (.inl ⟨c, rest, w, hi, hr, hw, rfl⟩))))
      · cases h
    · next hw => cases h; exact .inr (.inr (.inl ⟨c, rest, hi, hr, hw, rfl⟩))
  | instrFrame bytes =>
    simp only [runInput, runCode] at h
    split at h
    · next i hd =>
      obtain ⟨f, hf, rfl⟩ := map_ok hd
      rw [exec_instrOfFrame] at h
      cases h
      exact .inr (.inr (.inr (.inr (.inr (.inl ⟨bytes, rest, f, hi, hf, rfl⟩)))))
    · cases h
  | statusFrame bytes =>
    simp only [runInput, runCode] at h
    split at h
    · next i hd =>
      obtain ⟨f, hf, rfl⟩ := map_ok hd
      cases h
      exact .inr (.inr (.inr (.inr (.inr (.inr ⟨bytes, rest, f, hi, hf, rfl⟩)))))
    · cases h

end Sys2Proof.Machine
end

