-- ==== Sys2Proof/Laws/HostLoop.lean ====
section
/-! SUPPORT. What a poll and a wait loop can do, once. -/

namespace Sys2Proof.Machine

theorem stepAll_append (is js : List Input) (s : State) :
    stepAll (is ++ js) s = match stepAll is s with
      | .next t => stepAll js t
      | .fault r => .fault r
      | .refused r => .refused r := by
  induction is generalizing s with
  | nil => rfl
  | cons i is ih =>
    simp only [List.cons_append, stepAll]
    cases stepOn i s with
    | next t => exact ih t
    | fault r => rfl
    | refused r => rfl

/-- A poll with nothing before it is one step. -/
theorem stepAll_one (i : Input) (s : State) : stepAll [i] s = stepOn i s := by
  unfold stepAll
  cases stepOn i s <;> rfl

/-- A poll's cycle without reset reads STATUS as the cycle finds it, and its bus events follow (R261, R262). -/
theorem stepOn_poll {c : Cycle} (hr : c.rst = false) (s : State) :
    stepOn (.cycle { c with host := some (encodeHost false 0x008 0x00) }) s =
      .next (uartTakes c s (busEvents c { s with hRData := some s.status })) := by
  have hd : decode (.host (encodeHost false 0x008 0x00)) = .ok (.hostRd 0x008) := by decide
  simp only [stepOn, step, runInput, runCycle, hr, runCode, hd]
  rfl

/-- A poll in a cycle of reset reads 0x00 (R320). -/
theorem stepOn_poll_reset {c : Cycle} (hr : c.rst = true) (s : State) :
    ∃ t, stepOn (.cycle { c with host := some (encodeHost false 0x008 0x00) }) s = .next t ∧ t.readDone = false := by
  refine ⟨_, by simp only [stepOn, step, runInput, runCycle, hr]; rfl, ?_⟩
  simp only [State.readDone, uartTakes_hRData, resetCycle]
  split <;> rfl

/-- Waiting on two runs of polls is waiting on the first and, if that read no DONE, on the second. -/
theorem pseudoWaitDone_append (ps qs : List Poll) (s : State) :
    pseudoWaitDone (ps ++ qs) s = match pseudoWaitDone ps s with
      | .next (true, t) => .next (true, t)
      | .next (false, t) => pseudoWaitDone qs t
      | .fault r => .fault r
      | .refused r => .refused r := by
  induction ps generalizing s with
  | nil => rfl
  | cons p ps ih =>
    simp only [List.cons_append, pseudoWaitDone]
    cases stepAll p.inputs s with
    | next t =>
      dsimp only
      split
      · rfl
      · exact ih t
    | fault r => rfl
    | refused r => rfl

end Sys2Proof.Machine
end

