-- ==== Sys2Proof/Laws/HostMap.lean ====
section
/-! SUPPORT. The host address map (R72) read by range. -/

namespace Sys2Proof.Machine

/-- An address past the registers is in a buffer or reserved (R72, R80). -/
theorem locOf_high {a : HostAddr} (h : 0x012 < a.toNat) :
    locOf a = if 0x100 ≤ a.toNat ∧ a.toNat ≤ 0x1FC then .txBuf (a.toNat - 0x100)
      else if 0x200 ≤ a.toNat ∧ a.toNat ≤ 0x2FC then .rxBuf (a.toNat - 0x200) else .reserved := by
  unfold locOf
  generalize a.toNat = n at h
  split <;> first | omega | rfl

theorem locOf_txBuf {a : HostAddr} (h : 0x100 ≤ a.toNat ∧ a.toNat ≤ 0x1FC) : locOf a = .txBuf (a.toNat - 0x100) := by
  rw [locOf_high (by omega), if_pos h]

theorem locOf_rxBuf {a : HostAddr} (h : 0x200 ≤ a.toNat ∧ a.toNat ≤ 0x2FC) : locOf a = .rxBuf (a.toNat - 0x200) := by
  rw [locOf_high (by omega), if_neg (by omega), if_pos h]

/-- The reserved addresses (R80). -/
theorem locOf_reserved {a : HostAddr} (h : a.toNat = 0x007 ∨ 0x013 ≤ a.toNat ∧ a.toNat ≤ 0x0FF ∨
    0x1FD ≤ a.toNat ∧ a.toNat ≤ 0x1FF ∨ 0x2FD ≤ a.toNat) : locOf a = .reserved := by
  rcases h with h | h
  · obtain rfl : a = 0x007 := BitVec.eq_of_toNat_eq h
    rfl
  · rw [locOf_high (by omega), if_neg (by omega), if_neg (by omega)]

/-- The host address of `TX_BUF[i]`. -/
theorem locOf_ofNat_txBuf {i : Nat} (h : i < 253) : locOf (BitVec.ofNat 10 (0x100 + i)) = .txBuf i := by
  have ha : (BitVec.ofNat 10 (0x100 + i)).toNat = 0x100 + i := by rw [BitVec.toNat_ofNat]; omega
  rw [locOf_txBuf (by omega), ha, Nat.add_sub_cancel_left]

/-- The host address of `RX_BUF[i]`. -/
theorem locOf_ofNat_rxBuf {i : Nat} (h : i < 253) : locOf (BitVec.ofNat 10 (0x200 + i)) = .rxBuf i := by
  have ha : (BitVec.ofNat 10 (0x200 + i)).toNat = 0x200 + i := by rw [BitVec.toNat_ofNat]; omega
  rw [locOf_rxBuf (by omega), ha, Nat.add_sub_cancel_left]

/-- A register address is one of finitely many. -/
theorem addr_of_le {a : HostAddr} {n : Nat} (h : a.toNat ≤ n) : ∃ k, k ≤ n ∧ a = BitVec.ofNat 10 k :=
  ⟨a.toNat, h, by simp⟩

/-- A location in TX_BUF has an index below 253. -/
theorem locOf_txBuf_lt {a : HostAddr} {i : Nat} (h : locOf a = .txBuf i) : i < 253 := by
  by_cases h' : a.toNat ≤ 0x012
  · exfalso
    obtain ⟨k, hk, rfl⟩ := addr_of_le h'
    have hh : ∀ k, k ≤ 18 → (match locOf (BitVec.ofNat 10 k) with | .txBuf _ => false | _ => true) = true := by decide
    have hk' := hh k hk
    rw [h] at hk'
    cases hk'
  · rw [locOf_high (by omega)] at h
    split at h
    · injection h with h; omega
    · split at h <;> injection h

/-- Only address 0 is CMD. -/
theorem locOf_cmd {a : HostAddr} (h : locOf a = .cmd) : a = 0 := by
  by_cases h' : a.toNat ≤ 0x012
  · obtain ⟨k, hk, rfl⟩ := addr_of_le h'
    have hh : ∀ k, k ≤ 18 → locOf (BitVec.ofNat 10 k) = .cmd → BitVec.ofNat 10 k = 0 := by decide
    exact hh k hk h
  · rw [locOf_high (by omega)] at h
    split at h
    · injection h
    · split at h <;> injection h

end Sys2Proof.Machine
end

