-- ==== Sys2Proof/Tests/Slice0.lean ====
section
/-! SUPPORT. The model's own tests. Expected values come from the spec: its encodings (R100, R101, R110, R111) and the
worked examples of 95_test_vectors.md, named in each comment. Then a witness for the hypotheses of each statement. -/

namespace Sys2Proof.Tests

open Sys2Proof Sys2Proof.Machine

/-- The state a step or an instruction ends in, if it ends in one. -/
def ended : Host.Outcome State Fault Refusal → Option State
  | .next s => some s
  | .fault _ => none
  | .refused _ => none

/-- A ping to address 5 with TIMEOUT 3, not yet started (E1). -/
def ping : State := { State.reset with timeoutLo := 3, timeoutHi := 0, txAddr := 0x05, txOpc := 0x01 }

/-- The same exchange in a given phase. -/
def inPhase (p : Phase) : State := { ping with phase := p, txCsum := 0xF7 }

/-- One step on a host word alone in its cycle. -/
def onWord (w : HostWord) (s : State) : Option State := ended (step (withNextCode (.host w) s))

/-- One step on a cycle. -/
def onCycle (c : Cycle) (s : State) : Option State := ended (step { s with inputs := [.cycle c] })

/-! ### WellFormed: one ill-formed term for each check -/

theorem test_wf_refuses_cmdRsvd_clear : (Instr.cmdRsvd 0x03).wf = false := by decide
theorem test_wf_refuses_hostWr_to_cmd : (Instr.hostWr 0x000 0x01).wf = false := by decide
theorem test_wf_refuses_instrFrame_length : (Instr.instrFrame ⟨0x05, 0x03, 0x07, [0xF1]⟩).wf = false := by decide
theorem test_wf_refuses_instrFrame_named : (Instr.instrFrame ⟨0x05, 0x02, 0x01, [0xF7]⟩).wf = false := by decide
theorem test_wf_refuses_statusFrame_length : (Instr.statusFrame ⟨0x05, 0x02, 0x00, [0x14, 0xE3]⟩).wf = false := by decide
theorem test_wf_refuses_device_lengths :
    (Instr.ping 0x05 0x02 []).wf = false ∧ (Instr.read 0x05 0x02 [0, 0]).wf = false ∧ (Instr.write 0x05 0x00 [0]).wf = false
      ∧ (Instr.reset 0x05 0x03 [0]).wf = false ∧ (Instr.syncWrite 0xFE 0x02 []).wf = false := by decide

/-! ### Decode: words written out from the encodings -/

/-- R110: bit 19 W, 18 zero, 17:8 A, 7:0 D. -/
theorem test_decode_nop : decode (.host 0b1_0_0000000000_00000000) = .ok .nop := by decide
theorem test_decode_start : decode (.host 0b1_0_0000000000_00000001) = .ok .start := by decide
theorem test_decode_abort : decode (.host 0b1_0_0000000000_00000010) = .ok .abort := by decide
theorem test_decode_clear : decode (.host 0b1_0_0000000000_00000011) = .ok .clear := by decide
theorem test_decode_cmdRsvd : decode (.host 0b1_0_0000000000_01111111) = .ok (.cmdRsvd 0x7F) := by decide
/-- `wr TX_BUF+1, 0x02` is 0x90102 (P2). -/
theorem test_decode_hostWr : decode (.host 0b1_0_0100000001_00000010) = .ok (.hostWr 0x101 0x02) := by decide
/-- `rd RX_BUF+1` is 0x20100 (P2). -/
theorem test_decode_hostRd : decode (.host 0b0_0_1000000001_00000000) = .ok (.hostRd 0x201) := by decide
theorem test_decode_refuses_bit18 : decode (.host 0b0_1_0000001000_00000000) = .error .reservedBit18 := by decide
/-- The source's ping (E1). -/
theorem test_decode_ping : decode (.instrFrame [0xFF, 0xFF, 0x05, 0x02, 0x01, 0xF7]) = .ok (.ping 0x05 0x02 [0xF7]) := by
  decide
/-- P2's read of two bytes. -/
theorem test_decode_read : decode (.instrFrame [0xFF, 0xFF, 0x05, 0x04, 0x02, 0x24, 0x02, 0xCE]) =
    .ok (.read 0x05 0x04 [0x24, 0x02, 0xCE]) := by decide
/-- P6's write. -/
theorem test_decode_write : decode (.instrFrame [0xFF, 0xFF, 0x05, 0x05, 0x03, 0x1E, 0x00, 0x02, 0xD2]) =
    .ok (.write 0x05 0x05 [0x1E, 0x00, 0x02, 0xD2]) := by decide
/-- R100 with opcode 0x06: the checksum is `~(05+02+06)`. -/
theorem test_decode_reset : decode (.instrFrame [0xFF, 0xFF, 0x05, 0x02, 0x06, 0xF2]) = .ok (.reset 0x05 0x02 [0xF2]) := by
  decide
/-- P3's sync write. -/
theorem test_decode_syncWrite :
    decode (.instrFrame [0xFF, 0xFF, 0xFE, 0x0A, 0x83, 0x1E, 0x02, 0x05, 0x00, 0x02, 0x06, 0xFF, 0x01, 0x47]) =
      .ok (.syncWrite 0xFE 0x0A [0x1E, 0x02, 0x05, 0x00, 0x02, 0x06, 0xFF, 0x01, 0x47]) := by decide
/-- R100 with opcode 0x07: the checksum is `~(05+02+07)`. -/
theorem test_decode_instrFrame : decode (.instrFrame [0xFF, 0xFF, 0x05, 0x02, 0x07, 0xF1]) =
    .ok (.instrFrame ⟨0x05, 0x02, 0x07, [0xF1]⟩) := by decide
/-- The corrected status frame (E2). -/
theorem test_decode_statusFrame : decode (.statusFrame [0xFF, 0xFF, 0x05, 0x03, 0x00, 0x14, 0xE3]) =
    .ok (.statusFrame ⟨0x05, 0x03, 0x00, [0x14, 0xE3]⟩) := by decide
theorem test_decode_refuses_bad_frames :
    decode (.statusFrame [0xFF, 0xFE, 0x05, 0x02, 0x00, 0xF8]) = .error .noMarker ∧
      decode (.statusFrame [0xFF, 0xFF, 0x05, 0x03, 0x00, 0x14]) = .error .frameTooShort ∧
      decode (.instrFrame [0xFF, 0xFF, 0x05, 0x02, 0x01, 0xF7, 0x00]) = .error .frameTooLong := by decide
/-- A table-numbered word of a wire row: byte 0 most significant (R116 (2)); the frame's later bytes are zero. -/
theorem test_decodeTableWord_read : decodeTableWord 40 0xFFFF050402 = some (.read 0x05 0x04 [0, 0, 0]) := by decide

/-! ### Steps: one instruction each -/

/-- R137: no effect in any phase. -/
theorem test_nop_in_tx : onWord 0x80000 (inPhase .tx) = some (inPhase .tx) := by decide
/-- R132's example: TX_CSUM 0xF7, STATUS 0x01. -/
theorem test_start_ping : (onWord 0x80001 ping).map (fun t => (t.phase, t.idx, t.txCsum, hostRead t 0x008, t.txData)) =
    some (.tx, 0, 0xF7, 0x01, 0xFF) := by decide
/-- P-3: both checks fail. -/
theorem test_start_bad_address_first : (onWord 0x80001 { ping with txAddr := 0xFF, txLen := 0xFF }).map
    (fun t => (t.phase, hostRead t 0x009, hostRead t 0x008)) = some (.idle, 0x01, 0x06) := by decide
/-- R134's example: in RX_M1, FAULT_CODE 8, FAULT_PHASE 3, STATUS 0x06. -/
theorem test_abort_in_rx : (onWord 0x80002 (inPhase .rxM1)).map
    (fun t => (t.phase, hostRead t 0x009, hostRead t 0x00B, hostRead t 0x008)) = some (.idle, 0x08, 0x03, 0x06) := by decide
/-- P6: ABORT in TX asks for the turnaround. -/
theorem test_abort_in_tx : (onWord 0x80002 (inPhase .tx)).map (fun t => (t.phase, t.abrt, t.faultPhase, t.txValid, t.dir)) =
    some (.turn, true, .tx, false, true) := by decide
/-- R135's example: after a CHECKSUM fault STATUS 0x06 becomes 0x00, RX_CSUM stays. -/
theorem test_clear_after_checksum :
    (onWord 0x80003 { ping with done := true, faultCode := .checksum, faultPhase := .rxCsum, rxCsum := 0xE4 }).map
      (fun t => (hostRead t 0x008, hostRead t 0x009, t.rxCsum)) = some (0x00, 0x00, 0xE4) := by decide
/-- R136: REJ only. -/
theorem test_clear_in_tx : onWord 0x80003 (inPhase .tx) = some { inPhase .tx with rej := true } := by decide
/-- R137's example: STATUS 0x00 becomes 0x10. -/
theorem test_cmdRsvd : (onWord 0x8007F ping).map (fun t => hostRead t 0x008) = some 0x10 := by decide
/-- R74, R24: bits 7:2 of CFG are dropped. -/
theorem test_hostWr_cfg : (onWord 0x801FF ping).map (fun t => hostRead t 0x001) = some 0x03 := by decide
/-- P6: a rejected TX_BUF write does not land. -/
theorem test_hostWr_rejected : (onWord 0x90099 { inPhase .tx with mem := [(0x100, 0x1E)] }).map
    (fun t => (hostRead t 0x100, hostRead t 0x008)) = some (0x1E, 0x11) := by decide
/-- P1: `rd STATUS -> 0x01` in TURN. -/
theorem test_hostRd_status : (onWord 0x00800 (inPhase .turn)).map (fun t => t.hRData) = some (some 0x01) := by decide
/-- R80: a reserved address reads 0x00. -/
theorem test_hostRd_reserved : (onWord 0x3FF00 (inPhase .rxPay)).map (fun t => t.hRData) = some (some 0x00) := by decide
/-- E1: the UART takes the ping, and PHASE is TURN. -/
theorem test_ping_taken : (ended (exec (.ping 0x05 0x02 [0xF7]) (inPhase .tx))).map (fun t => (t.phase, t.sent)) =
    some (.turn, [0xFF, 0xFF, 0x05, 0x02, 0x01, 0xF7]) := by decide
/-- A frame the block does not present is not sent (log 10). -/
theorem test_instrFrame_not_presented : ended (exec (.instrFrame ⟨0x05, 0x02, 0x07, [0xF1]⟩) (inPhase .tx)) =
    some (inPhase .tx) := by decide
/-- R100 with opcode 0x07. -/
theorem test_instrFrame_taken : (ended (exec (.instrFrame ⟨0x05, 0x02, 0x07, [0xF1]⟩)
      { inPhase .tx with txOpc := 0x07, txCsum := 0xF1 })).map (fun t => (t.phase, t.sent)) =
    some (.turn, [0xFF, 0xFF, 0x05, 0x02, 0x07, 0xF1]) := by decide
/-- P2: the UART takes `FF FF 05 04 02 24 02 CE`. -/
theorem test_read_taken : (ended (exec (.read 0x05 0x04 [0x24, 0x02, 0xCE])
      { inPhase .tx with txOpc := 0x02, txLen := 2, txCsum := 0xCE, mem := [(0x100, 0x24), (0x101, 0x02)] })).map
      (fun t => (t.phase, t.sent)) = some (.turn, [0xFF, 0xFF, 0x05, 0x04, 0x02, 0x24, 0x02, 0xCE]) := by decide
/-- P6's frame, had it not been aborted. -/
theorem test_write_taken : (ended (exec (.write 0x05 0x05 [0x1E, 0x00, 0x02, 0xD2])
      { inPhase .tx with txOpc := 0x03, txLen := 3, txCsum := 0xD2, mem := [(0x100, 0x1E), (0x101, 0x00), (0x102, 0x02)] })).map
      (fun t => (t.phase, t.sent)) = some (.turn, [0xFF, 0xFF, 0x05, 0x05, 0x03, 0x1E, 0x00, 0x02, 0xD2]) := by decide
/-- R107: a reset-to-defaults is sent like any frame and resets no block state. -/
theorem test_reset_taken : (ended (exec (.reset 0x05 0x02 [0xF2]) { inPhase .tx with txOpc := 0x06, txCsum := 0xF2 })).map
      (fun t => (t.phase, t.txOpc, t.sent)) = some (.turn, 0x06, [0xFF, 0xFF, 0x05, 0x02, 0x06, 0xF2]) := by decide
/-- R100 with opcode 0x83: the checksum is `~(FE+04+83+1E+02)`. -/
theorem test_syncWrite_taken : (ended (exec (.syncWrite 0xFE 0x04 [0x1E, 0x02, 0x5A])
      { inPhase .tx with txAddr := 0xFE, txOpc := 0x83, txLen := 2, txCsum := 0x5A, mem := [(0x100, 0x1E), (0x101, 2)] })).map
      (fun t => (t.phase, t.sent)) = some (.turn, [0xFF, 0xFF, 0xFE, 0x04, 0x83, 0x1E, 0x02, 0x5A]) := by decide
/-- E2, corrected: success. -/
theorem test_statusFrame_good : (ended (exec (.statusFrame ⟨0x05, 0x03, 0x00, [0x14, 0xE3]⟩) (inPhase .rxM1))).map
    (fun t => (hostRead t 0x009, hostRead t 0x008, t.rxCnt, hostRead t 0x200, t.rxCsum, t.rxCalc)) =
    some (0x00, 0x02, 1, 0x14, 0xE3, 0xE3) := by decide
/-- E2, as printed: CHECKSUM with RX_CSUM 0xE4 and RX_CALC 0xE3. -/
theorem test_statusFrame_bad_checksum : (ended (exec (.statusFrame ⟨0x05, 0x03, 0x00, [0x14, 0xE4]⟩) (inPhase .rxM1))).map
    (fun t => (hostRead t 0x009, hostRead t 0x00B, hostRead t 0x008, t.rxCnt, t.rxCsum, t.rxCalc)) =
    some (0x06, 0x09, 0x06, 1, 0xE4, 0xE3) := by decide

/-! ### The bus events and the cycle -/

/-- S11: a byte and a tick in one cycle with TIMEOUT 1. -/
theorem test_byte_then_tick : (onCycle { Cycle.quiet with rx := some 0xFF, tick := true }
      { inPhase .rxM1 with timeoutLo := 1 }).map (fun t => (t.phase, hostRead t 0x009, hostRead t 0x00B)) =
    some (.idle, 0x07, 0x04) := by decide
/-- S12: the checksum byte completes and the tick falls in IDLE. -/
theorem test_checksum_then_tick : (onCycle { Cycle.quiet with rx := some 0xF8, tick := true }
      { inPhase .rxCsum with timeoutLo := 1, rxAddr := 5, rxLen := 2, acc := 0x07 }).map
      (fun t => (t.phase, hostRead t 0x008)) = some (.idle, 0x02) := by decide
/-- S18: ABORT and a byte in one cycle. -/
theorem test_abort_beats_byte : (onCycle { Cycle.quiet with host := some 0x80002, rx := some 0x05 } (inPhase .rxAddr)).map
    (fun t => (hostRead t 0x009, hostRead t 0x00B, t.rxAddr)) = some (0x08, 0x05, 0x00) := by decide
/-- S15: a suppressed exchange ends at its `TxIdle`. -/
theorem test_suppressed : (onCycle { Cycle.quiet with txIdle := true } { inPhase .turn with cfg := 1 }).map
    (fun t => (hostRead t 0x008, t.rxCnt)) = some (0x02, 0) := by decide
/-- R-4: a host write in a cycle of reset is ignored, and a read returns 0x00 (R320). -/
theorem test_reset_cycle : (onCycle { Cycle.quiet with rst := true, host := some 0x80205 } (inPhase .tx)).map
      (fun t => (t.phase, t.txAddr, t.hRData)) = some (.idle, 0x00, none) ∧
    (onCycle { Cycle.quiet with rst := true, host := some 0x00200 } (inPhase .tx)).map (fun t => t.hRData) =
      some (some 0x00) := by decide
/-- R264 (1): the UART takes TX_DATA with a TX_ACK, once; the ping's first byte is the marker. -/
theorem test_ack_taken_once : (onCycle { Cycle.quiet with txAck := true } (inPhase .tx)).map
    (fun t => (t.phase, t.idx, t.sent)) = some (.tx, 1, [0xFF]) := by decide

/-- R264 (1) with R262 and R166: an ABORT in the cycle of a TX_ACK; the event has no effect, the byte is on the wire. -/
theorem test_abort_and_ack : (onCycle { Cycle.quiet with host := some 0x80002, txAck := true }
    { inPhase .tx with idx := 2, sent := [0xFF, 0xFF] }).map (fun t => (t.phase, t.idx, t.sent)) =
      some (.turn, 2, [0xFF, 0xFF, 0x05]) := by decide

/-- R264 (1) with R320: the same in a cycle of reset. -/
theorem test_reset_and_ack : (onCycle { Cycle.quiet with rst := true, txAck := true } (inPhase .tx)).map
    (fun t => (t.phase, t.idx, t.sent)) = some (.idle, 0, [0xFF]) := by decide

/-- R107's one opcode of the source. -/
theorem test_opcode_ping : DeviceOp.ping.opcode = 0x01 := by decide

/-- V-FLAG. -/
theorem test_error_flags : decodeErrorFlags 0x80 = [.reserved7] ∧ decodeErrorFlags 0x22 = [.angleLimit, .overload] ∧
    (decodeErrorFlags 0xFF).length = 8 := by decide
/-- E1 as the pure encoder (R160). -/
theorem test_encodeInstruction : encodeInstruction 0x05 0x01 [] = [0xFF, 0xFF, 0x05, 0x02, 0x01, 0xF7] := by decide

/-! ### Witnesses: the hypotheses of each statement can be met -/

theorem witness_DecodeEncodeRoundTrip :
    Instr.nop.wf = true ∧ Instr.start.wf = true ∧ Instr.abort.wf = true ∧ Instr.clear.wf = true ∧
      (Instr.cmdRsvd 0x04).wf = true ∧ (Instr.cmdRsvd 0xFF).wf = true ∧ (Instr.hostWr 0x001 0x00).wf = true ∧
      (Instr.hostWr 0x3FF 0xFF).wf = true ∧ (Instr.hostRd 0x000).wf = true ∧
      (Instr.instrFrame ⟨0x00, 0x00, 0x00, []⟩).wf = true ∧ (Instr.statusFrame ⟨0xFF, 0x02, 0xFF, [0x00]⟩).wf = true ∧
      (Instr.ping 0x05 0x02 [0xF7]).wf = true ∧ (Instr.read 0x05 0x03 [1, 2]).wf = true ∧
      (Instr.write 0x05 0x01 []).wf = true ∧ (Instr.reset 0x05 0x02 [0xF2]).wf = true ∧
      (Instr.syncWrite 0xFE 0x03 [1, 2]).wf = true := by decide

/-- A frame of every length the length byte can say, 0xFF included. -/
theorem witness_DecodeEncodeRoundTrip_lengths (len : Byte) :
    (Instr.syncWrite 0xFE len (List.replicate (len.toNat - 1) 0)).wf = true :=
  decide_eq_true List.length_replicate

theorem witness_DecodedCodesAreCanonical_DecoderFollowsTable :
    decode (.host 0xBFFFF) = .ok (.hostWr 0x3FF 0xFF) ∧ decode (.host 0x00801) = .ok (.hostRd 0x008) ∧
      decode (.instrFrame [0xFF, 0xFF, 0xFE, 0x00, 0x83]) = .ok (.syncWrite 0xFE 0x00 []) := by decide

theorem witness_HostWordFields : (0x001 : HostAddr) ≠ 0 ∧ (0x3FF : HostAddr) ≠ 0 ∧ 4 ≤ (0x04 : Byte).toNat ∧
    4 ≤ (0xFF : Byte).toNat ∧ (0x40000 : HostWord).getLsbD 18 = true ∧ (0xFFFFF : HostWord).getLsbD 18 = true := by decide

theorem witness_StepRunsDecodedInstruction :
    decode (.host 0x80001) = .ok .start ∧ (withNextCode (.host 0x80001) ping).inputs =
        .cycle { Cycle.quiet with host := some 0x80001 } :: [] ∧
      decode (.instrFrame [0xFF, 0xFF, 0x05, 0x02, 0x01, 0xF7]) = .ok (.ping 0x05 0x02 [0xF7]) ∧
      decode (.statusFrame [0xFF, 0xFF, 0x05, 0x02, 0x00, 0xF8]) = .ok (.statusFrame ⟨0x05, 0x02, 0x00, [0xF8]⟩) := by decide

theorem witness_StepStopsOnlyOnWhatSpellsNothing : ping.inputs = [] ∧ (Input.cycle Cycle.quiet).spells = true ∧
    (Input.cycle { Cycle.quiet with host := some 0x40000 }).spells = false ∧
    (Input.cycle { Cycle.quiet with rst := true, host := some 0x40000 }).spells = true ∧
    (Input.instrFrame [0xFF, 0xFF, 0x05, 0x01, 0x01]).spells = true ∧ (Input.instrFrame [0xFF]).spells = false ∧
    (Input.statusFrame [0xFF, 0xFF, 0x05, 0x00, 0x01]).spells = true ∧
    (Input.statusFrame [0x00, 0xFF, 0x05, 0x00, 0x01]).spells = false := by decide

theorem witness_CycleEventOrder : Cycle.quiet.rst = false ∧ Cycle.quiet.host = none ∧
    decode (.host 0x80000) = .ok .nop ∧ ended (exec .nop (takeInput [] ping)) = some (takeInput [] ping) ∧
    ({ Cycle.quiet with rst := true } : Cycle).rst = true := by decide

theorem witness_SameCyclePriority : (inPhase .rxM1).phase.isRx = true ∧ (inPhase .rxCsum).phase.isRx = true ∧
    (onRxByte 0xFF (takeInput [] (inPhase .rxM1))).phase ≠ .idle ∧ 1 < (inPhase .rxM1).timeout.toNat ∧
    { inPhase .rxM1 with timeoutLo := 1 }.timeout.toNat ≤ 1 ∧ (onRxByte 0x00 (takeInput [] (inPhase .rxCsum))).phase = .idle := by
  decide

theorem witness_ResetSetsEveryValue :
    { inPhase .rxPay with inputs := [.cycle { Cycle.quiet with rst := true, host := some 0x00800 }] }.inputs =
      .cycle { Cycle.quiet with rst := true, host := some (encodeHost false 0x008 0) } :: [] := by decide

theorem inv_ping : Invariant ping := by constructor; constructor; all_goals decide

/-- An exchange that waits for its second payload byte of two. -/
def inPay : State := { inPhase .rxPay with rxAddr := 5, rxLen := 4, rxCnt := 1, acc := 0x2D, mem := [(0x200, 0x24)] }

theorem inv_inPay : Invariant inPay := by constructor; constructor; all_goals decide

/-- The same exchange waiting for its checksum byte. -/
def inCsum : State := { inPay with phase := .rxCsum, rxCnt := 2, acc := 0x2F, mem := [(0x200, 0x24), (0x201, 0x02)] }

theorem inv_inCsum : Invariant inCsum := by constructor; constructor; all_goals decide

theorem inv_turn : Invariant (inPhase .turn) := by constructor; constructor; all_goals decide

theorem inv_rxM2 : Invariant { inPhase .rxM2 with m1 := 0xFF } := by constructor; constructor; all_goals decide

theorem inv_rxAddr : Invariant (inPhase .rxAddr) := by constructor; constructor; all_goals decide

theorem inv_rxLen : Invariant { inPhase .rxLen with rxAddr := 5, acc := 5 } := by constructor; constructor; all_goals decide

theorem witness_StepKeepsInv : Invariant { inPay with inputs := [.cycle { Cycle.quiet with rx := some 0x02 }] } ∧
    ∃ t, step { inPay with inputs := [.cycle { Cycle.quiet with rx := some 0x02 }] } = .next t :=
  ⟨by constructor; constructor; all_goals decide, _, rfl⟩

/-- A run from reset reaches a busy state, and a step from it. -/
theorem witness_ReachableStatesMeetR59 :
    ∃ s t, Reachable s ∧ s.phase ≠ .idle ∧ (∀ c rest, s.inputs = .cycle c :: rest → c.rst = false) ∧ step s = .next t :=
  ⟨_, _, .step (.reset [.cycle { Cycle.quiet with host := some 0x80001 }]) rfl, by decide, (fun _ _ h => by cases h), rfl⟩

theorem witness_HostReadReturns : ended (exec (.hostRd 0x008) ping) = some { ping with hRData := some 0x00 } ∧
    0 < 253 ∧ 252 < 253 ∧ (0x013 : HostAddr).toNat < 0x100 ∧ 0x012 < (0x013 : HostAddr).toNat ∧
    0x1FC < (0x1FD : HostAddr).toNat ∧ (0x1FF : HostAddr).toNat < 0x200 ∧ 0x2FC < (0x3FF : HostAddr).toNat ∧
    (0x007 : HostAddr).toNat = 0x007 := by decide

theorem witness_ReservedAddressesInert :
    ∀ a ∈ ([0x007, 0x013, 0x0FF, 0x1FD, 0x1FF, 0x2FD, 0x3FF] : List HostAddr), a.toNat = 0x007 ∨
      0x013 ≤ a.toNat ∧ a.toNat ≤ 0x0FF ∨ 0x1FD ≤ a.toNat ∧ a.toNat ≤ 0x1FF ∨ 0x2FD ≤ a.toNat := by decide

/-- An idle block: the hypothesis of HostWriteInIdle, TimeoutLittleEndian, ClearFromIdle and, with a payload of each
boundary length, LoadTxLoadsTheFrame. -/
theorem witness_idle : ping.phase = .idle ∧ (List.replicate 253 (0 : Byte)).length ≤ 253 ∧
    ([] : List Byte).length ≤ 253 := ⟨rfl, le_of_eq List.length_replicate, Nat.zero_le _⟩

theorem witness_HostWriteRejectedWhileBusy : (inPhase .tx).phase ≠ .idle ∧ (inPhase .rxCsum).phase ≠ .idle ∧
    ∀ a ∈ ([0x001, 0x006, 0x100, 0x1FC] : List HostAddr),
      1 ≤ a.toNat ∧ a.toNat ≤ 6 ∨ 0x100 ≤ a.toNat ∧ a.toNat ≤ 0x1FC := by decide

theorem witness_ReadOnlyWritesIgnored : ∀ a ∈ ([0x008, 0x012, 0x200, 0x2FC] : List HostAddr),
    0x008 ≤ a.toNat ∧ a.toNat ≤ 0x012 ∨ 0x200 ≤ a.toNat ∧ a.toNat ≤ 0x2FC := by decide

theorem witness_NoInstructionChangesBusySettings : (inPhase .tx).phase ≠ .idle ∧
    ended (exec (.hostWr 0x100 0x99) (inPhase .tx)) = some { inPhase .tx with rej := true } := by decide

theorem witness_CommandDispatch : ended (runCode (.host (encodeHost true 0x000 0x03)) ping) = some ping := by decide

theorem witness_NopAndReservedCommands : 4 ≤ (0x04 : Byte).toNat ∧ 4 ≤ (0xFF : Byte).toNat := by decide

theorem witness_StartFromIdle : ping.phase = .idle ∧ { ping with txAddr := 0xFF, txLen := 0xFF }.txAddr = 0xFF ∧
    { ping with txAddr := 0xFE, txLen := 254 }.txAddr ≠ 0xFF ∧ 253 < { ping with txAddr := 0xFE, txLen := 254 }.txLen.toNat ∧
    { ping with txAddr := 0xFE, txLen := 253 }.txLen.toNat ≤ 253 := by decide

theorem witness_StartAndClearRejectedWhileBusy : (inPhase .rxLen).phase ≠ .idle := by decide

theorem witness_AbortByPhase : (inPhase .idle).phase = .idle ∧ (inPhase .tx).phase = .tx ∧ (inPhase .turn).phase = .turn ∧
    (inPhase .turn).abrt = false ∧ { inPhase .turn with abrt := true }.abrt = true ∧ (inPhase .rxM1).phase.isRx = true ∧
    (inPhase .rxCsum).phase.isRx = true := by decide

theorem witness_RejIsSticky : (onWord 0x80003 { ping with rej := true }).map (·.rej) = some false ∧
    (onCycle { Cycle.quiet with rst := true } { inPhase .tx with rej := true }).map (·.rej) = some false := by decide

theorem witness_DoneClearedOnlyByStartClearReset :
    (onWord 0x80001 { ping with done := true }).map (·.done) = some false ∧
      (onWord 0x80003 { ping with done := true }).map (·.done) = some false ∧
      (onCycle { Cycle.quiet with rst := true } { ping with done := true }).map (·.done) = some false := by decide

theorem witness_OnlyStartLeavesIdle : ping.phase = .idle ∧ (onWord 0x80001 ping).map (·.phase) = some .tx := by decide

theorem witness_PhaseTransitionsFollowTable :
    (ended (exec (.hostWr 0x000 0x02) (inPhase .tx))).map (·.phase) = some .turn := by decide

theorem witness_TurnEndsOnlyOnTxIdleOrReset : (inPhase .turn).phase = .turn ∧
    (onCycle { Cycle.quiet with txIdle := true } (inPhase .turn)).map (·.phase) = some .rxM1 := by decide

theorem witness_TxAcceptTakesFrameByte : (inPhase .tx).phase = .tx ∧
    { inPhase .tx with idx := 5 }.idx.toNat = (inPhase .tx).txLen.toNat + 5 ∧
    { inPhase .tx with idx := 258, txLen := 253 }.idx.toNat = { inPhase .tx with txLen := 253 }.txLen.toNat + 5 ∧
    (inPhase .tx).idx.toNat ≠ (inPhase .tx).txLen.toNat + 5 ∧ (inPhase .turn).phase ≠ .tx := by decide

theorem witness_InstrFrameIsSent : (Instr.ping 0x05 0x02 [0xF7]).sentFrame = some ⟨0x05, 0x02, 0x01, [0xF7]⟩ ∧
    (inPhase .tx).phase = .tx ∧ (inPhase .tx).idx = 0 ∧ (inPhase .tx).txLen.toNat ≤ 253 ∧
    txFrame (inPhase .tx) = (⟨0x05, 0x02, 0x01, [0xF7]⟩ : Frame).bytes := by decide

theorem witness_FrameNotPresentedIsNotSent : (inPhase .turn).phase ≠ .tx ∧
    txFrame (inPhase .tx) ≠ (⟨0x05, 0x02, 0x07, [0xF1]⟩ : Frame).bytes ∧
    (Instr.instrFrame ⟨0x05, 0x02, 0x07, [0xF1]⟩).sentFrame = some ⟨0x05, 0x02, 0x07, [0xF1]⟩ := by decide

theorem witness_ExchangeSendsEncodedInstruction : ping.phase = .idle ∧ ping.txAddr ≠ 0xFF ∧ ping.txLen.toNat ≤ 253 ∧
    (Instr.ping 0x05 0x02 [0xF7]).sentFrame = some (sentFrameOf ping) := by decide

theorem witness_TxIdleTurnsAround : (inPhase .turn).phase = .turn ∧ (inPhase .turn).abrt = false ∧
    (inPhase .turn).cfg.getLsbD 0 = false ∧ { inPhase .turn with abrt := true }.abrt = true ∧
    { inPhase .turn with cfg := 1 }.cfg.getLsbD 0 = true ∧ (inPhase .tx).phase ≠ .turn := by decide

theorem witness_OutputsFollowState : { ping with done := true }.phase = .idle ∧
    (ended (exec (.hostWr 0x001 0x02) { ping with done := true })).map (·.irq) = some true ∧
    (ended (exec .clear { ping with done := true, cfg := 2 })).map (·.irq) = some false ∧
    (ended (exec .start { ping with done := true, cfg := 2 })).map (·.phase) = some .tx := by decide

theorem witness_BytesOutsideRxAreDropped : (inPhase .idle).phase = .idle ∧ (inPhase .tx).phase = .tx ∧ (inPhase .turn).phase = .turn := by
  decide

theorem witness_MarkerBytes : (inPhase .rxM1).phase = .rxM1 ∧ { inPhase .rxM2 with m1 := 0xFF }.m1 = 0xFF ∧
    ¬ ({ inPhase .rxM2 with m1 := 0xFF }.m1 = 0xFF ∧ (0xFE : Byte) = 0xFF) ∧
    ¬ ({ inPhase .rxM2 with m1 := 0x00 }.m1 = 0xFF ∧ (0xFF : Byte) = 0xFF) := by decide

theorem witness_HeaderBytes : (inPhase .rxAddr).txAddr = 0x05 ∧ (0x06 : Byte) ≠ (inPhase .rxAddr).txAddr ∧
    2 ≤ (0x02 : Byte).toNat ∧ (0x01 : Byte).toNat < 2 ∧ { inPhase .rxErr with rxLen := 2 }.rxLen = 2 ∧
    { inPhase .rxErr with rxLen := 3 }.rxLen ≠ 2 := by decide

theorem witness_PayloadByteIsStored :
    3 ≤ { inPhase .rxPay with rxLen := 3 }.rxLen.toNat ∧
      { inPhase .rxPay with rxLen := 3 }.rxCnt.toNat < { inPhase .rxPay with rxLen := 3 }.rxLen.toNat - 2 ∧
      { inPhase .rxPay with rxLen := 255, rxCnt := 252 }.rxCnt.toNat <
        { inPhase .rxPay with rxLen := 255, rxCnt := 252 }.rxLen.toNat - 2 := by decide

theorem witness_ChecksumByteDecides : inCsum.phase = .rxCsum ∧ (0xD1 : Byte) ≠ ~~~ inCsum.acc ∧ (0xD0 : Byte) = ~~~ inCsum.acc := by
  decide

theorem sum8_zeros (n : Nat) : sum8 (List.replicate n 0x00) = 0 := by
  induction n with
  | zero => rfl
  | succ n ih => rw [List.replicate_succ, sum8, ih]; rfl

theorem witness_GoodStatusFrameSucceeds : (inPhase .rxM1).phase = .rxM1 ∧ (inPhase .rxM1).rxCnt = 0 ∧
    (0x02 : Byte).toNat = ([] : List Byte).length + 2 ∧ (0xF8 : Byte) = ~~~ sum8 ([(inPhase .rxM1).txAddr, 0x02, 0x00] ++ []) ∧
    (0xFF : Byte).toNat = (List.replicate 253 (0x00 : Byte)).length + 2 ∧
    (0xFB : Byte) = ~~~ sum8 ([(inPhase .rxM1).txAddr, 0xFF, 0x00] ++ List.replicate 253 0x00) := by
  refine ⟨rfl, rfl, rfl, rfl, by rw [List.length_replicate]; rfl, ?_⟩
  rw [sum8_append, sum8_zeros]
  rfl

theorem witness_StatusFrameFrame : Invariant inPay ∧ 0 < inPay.rxCnt.toNat := ⟨inv_inPay, by decide⟩

theorem witness_ReceptionIsPureDecode : (inPhase .rxM1).phase = .rxM1 ∧ (inPhase .rxM1).rxCnt = 0 ∧
    decodeStatus 0x05 [0xFF, 0xFF, 0x05, 0x03, 0x00, 0x14] = .needMore ∧
    decodeStatus 0x05 [0xFF, 0xFE] = .fault .framing 2 ∧ decodeStatus 0x05 [0xFF, 0xFF, 0x06] = .fault .addrMismatch 3 ∧
    decodeStatus 0x05 [0xFF, 0xFF, 0x05, 0x01] = .fault .length 4 ∧
    decodeStatus 0x05 [0xFF, 0xFF, 0x05, 0x03, 0x00, 0x14, 0xE4] = .fault .checksum 7 ∧
    decodeStatus 0x05 [0xFF, 0xFF, 0x05, 0x03, 0x00, 0x14, 0xE3, 0xAA] = .ok 0x00 [0x14] 7 := by decide

theorem witness_SingleBitCorruptionIsCaught :
    decodeStatus 0x05 [0xFF, 0xFF, 0x05, 0x03, 0x00, 0x14, 0xE3] = .ok 0x00 [0x14] 7 ∧ 0 < 7 ∧ 6 < 7 ∧ 0 ≠ 3 ∧ 6 ≠ 3 ∧
      0 < 8 ∧ 7 < 8 := by decide

theorem witness_EchoRoundTrip : ping.phase = .idle ∧ ping.txAddr ≠ 0xFF ∧ ping.txLen.toNat ≤ 253 ∧
    ping.cfg.getLsbD 0 = false := by decide

/-- Each way an RX byte ends an exchange, from a state that meets the invariant. -/
theorem witness_ResultsWhenExchangeEnds_bytes :
    (onRxByte 0xFE { inPhase .rxM2 with m1 := 0xFF }).faultCode = .framing ∧
      (onRxByte 0x06 (inPhase .rxAddr)).faultCode = .addrMismatch ∧
      (onRxByte 0x01 { inPhase .rxLen with rxAddr := 5, acc := 5 }).faultCode = .length ∧
      (onRxByte 0xD1 inCsum).faultCode = .checksum ∧ (onRxByte 0xD0 inCsum).faultCode = .none ∧
      (onRxByte 0xD0 inCsum).phase = .idle := by decide

/-- The other ways an exchange ends. -/
theorem witness_ResultsWhenExchangeEnds_other :
    (onTick { inPay with tmr := 2 }).phase = .idle ∧ (ended (exec .abort inPay)).map (·.phase) = some .idle ∧
      (onTxIdle { inPhase .turn with cfg := 1 }).phase = .idle ∧
      (ended (exec .start { ping with txAddr := 0xFF })).map (·.phase) = some .idle := by decide

theorem witness_TickCountsInRx : inPay.phase.isRx = true ∧ inPay.tmr + 1 < inPay.timeout ∧
    { inPay with tmr := 2 }.timeout ≤ { inPay with tmr := 2 }.tmr + 1 ∧ (inPhase .turn).phase.isRx = false := by decide

theorem witness_TimesOutAfterConsecutiveTicks : (inPhase .rxM1).phase.isRx = true ∧ (inPhase .rxM1).tmr = 0 ∧
    0 < max { inPhase .rxM1 with timeoutLo := 0 }.timeout.toNat 1 ∧ 2 < max (inPhase .rxM1).timeout.toNat 1 := by decide

theorem witness_ReceptionEndsWithin259Bytes : Invariant inPay ∧ inPay.phase.isRx = true ∧
    259 ≤ (List.replicate 259 (0 : Byte)).length := ⟨inv_inPay, by decide, ge_of_eq List.length_replicate⟩

theorem witness_UartTakesWhatItAcknowledges : (inPhase .tx).txValid = true ∧ (inPhase .turn).txValid = false ∧
    (Input.cycle { Cycle.quiet with host := some 0x80002, txAck := true }).spells = true ∧
    (Input.cycle { Cycle.quiet with rst := true, txAck := true }).spells = true ∧
    (onCycle { Cycle.quiet with host := some 0x80001, txAck := true } ping).map (·.sent) = some [0xFF] := by decide

theorem witness_EveryOpcodeIsSentUnchanged : ping.phase = .idle ∧ (0xFE : Byte) ≠ 0xFF ∧
    ([] : List Byte).length ≤ 253 ∧ (List.replicate 253 (0 : Byte)).length ≤ 253 :=
  ⟨rfl, by decide, Nat.zero_le _, le_of_eq List.length_replicate⟩

theorem witness_BroadcastIsSentLikeAnyAddress : { ping with txAddr := 0xFE }.phase = .idle ∧
    { ping with txAddr := 0xFE }.txAddr = Config.bcastAddr ∧ { ping with txAddr := 0xFE }.txLen.toNat ≤ 253 ∧
    { ping with cfg := 1 }.cfg.getLsbD 0 = true ∧ ping.cfg.getLsbD 0 = false := by decide

/-- How a `wait_done` ends: whether a poll read DONE, and the byte the host read last. -/
def waited (polls : List Poll) (s : State) : Option (Bool × Option Byte) :=
  match pseudoWaitDone polls s with
  | .next (b, t) => some (b, t.hRData)
  | .fault _ => none
  | .refused _ => none

/-- R115: the reply's last byte comes in the second poll's own cycle, which still reads DONE = 0 (R261); the third poll
reads DONE, and the fourth, which would be refused, is not made. -/
theorem test_wait_done : waited [⟨[], Cycle.quiet⟩, ⟨[], { Cycle.quiet with rx := some 0xF8 }⟩, ⟨[], Cycle.quiet⟩,
    ⟨[.statusFrame []], Cycle.quiet⟩] { inPhase .rxCsum with acc := 0x07 } = some (true, some 0x02) := by decide

/-- R115: the bound comes first. -/
theorem test_wait_done_bound : waited [⟨[], Cycle.quiet⟩, ⟨[], { Cycle.quiet with rx := some 0xF8 }⟩]
    { inPhase .rxCsum with acc := 0x07 } = some (false, some 0x01) := by decide

theorem witness_WaitDoneStopsAtFirstDone : Cycle.quiet.rst = false ∧ { ping with done := true }.done = true ∧
    waited [⟨[], Cycle.quiet⟩] { ping with done := true } = some (true, some 0x02) ∧
    waited [⟨[], Cycle.quiet⟩] ping = some (false, some 0x00) ∧ (Input.cycle Cycle.quiet).spells = true ∧
    { ping with done := true }.phase = .idle := by decide

theorem inv_done : Invariant { ping with done := true } := by constructor; constructor; all_goals decide

theorem witness_WaitDoneStopsAtFirstDone_hang : (inPhase .turn).phase ≠ .idle ∧ (inPhase .turn).done = false ∧
    waited (List.replicate 3 ⟨[], Cycle.quiet⟩) (inPhase .turn) = some (false, some 0x01) := by decide

end Sys2Proof.Tests
end

section
/-! SUPPORT. The read-only locations and the STATUS byte (O18, O20); what a host write can do, and when a step can drop a
flag that bus events keep (O29, O30). -/

namespace Sys2Proof.Machine

/-! ### Read-only locations (R41, R79) -/

/-- The registers of 0x008 to 0x012 (R72). -/
def readOnlyRegisters : List Loc :=
  [.status, .faultCode, .phase, .faultPhase, .rxAddr, .rxLen, .rxErr, .rxCsum, .rxCalc, .rxCnt, .txCsum]

theorem locOf_mem_readOnlyRegisters {a : HostAddr} (h : 0x008 ≤ a.toNat) (h' : a.toNat ≤ 0x012) :
    locOf a ∈ readOnlyRegisters := by
  have registers : ∀ k, k ≤ 0x012 → 0x008 ≤ (BitVec.ofNat 10 k).toNat →
      locOf (BitVec.ofNat 10 k) ∈ readOnlyRegisters := by decide
  obtain ⟨k, hk, rfl⟩ := addr_of_le h'
  exact registers k hk h

theorem writeLoc_readOnlyRegister {l : Loc} (h : l ∈ readOnlyRegisters) (d : Byte) (s : State) :
    writeLoc l d s = s := by
  unfold readOnlyRegisters at h
  fin_cases h <;> rfl

/-- Settles O18: each read-only address maps to a location whose write is the identity. -/
theorem readOnlyWritesIgnored : Obligations.ReadOnlyWritesIgnored := by
  intro s a d h
  suffices hw : hostWrite a d s = s from congrArg Host.Outcome.next hw
  unfold hostWrite
  rcases h with ⟨hlo, hhi⟩ | hbuf
  · exact writeLoc_readOnlyRegister (locOf_mem_readOnlyRegisters hlo hhi) d s
  · rw [locOf_rxBuf hbuf]; rfl

/-! ### The STATUS byte (R31) -/

/-- FAULT_CODE is numbered 0 for NONE alone (R280). -/
theorem FaultCode.code_eq_zero_iff (f : FaultCode) : f.code = 0 ↔ f = .none := by
  cases f <;> decide

/-- STATUS.FAULT is read from the number in FAULT_CODE (R34). -/
theorem fault_eq_decide_code (s : State) : s.fault = decide (s.faultCode.code ≠ 0) :=
  decide_eq_decide.2 (not_congr s.faultCode.code_eq_zero_iff.symm)

/-- The layout of STATUS, bit 0 first (R31). -/
theorem status_getLsbD (s : State) (i : Nat) :
    s.status.getLsbD i = [s.busy, s.done, s.fault, s.deverr, s.rej, s.irq].getD i false := by
  by_cases hi : i < 8
  · simp only [State.status, BitVec.getLsbD_append, BitVec.getLsbD_ofBool]
    interval_cases i <;> simp
  · rw [BitVec.getLsbD_of_ge _ _ (by omega), List.getD_eq_default _ _ (by simp; omega)]

/-- Settles O20, from the layout of STATUS. -/
theorem statusBits : Obligations.StatusBits := by
  refine ⟨rfl, fun _ _ => rfl, fun s => ?_⟩
  have bit : ∀ i, (hostRead s 0x008).getLsbD i = _ := status_getLsbD s
  exact ⟨bit 0, bit 1, (bit 2).trans (fault_eq_decide_code s), bit 3, bit 4, bit 5, (bit 5).symm, bit 6, bit 7⟩

/-! ### What a host write can do -/

/-- `t` is `s` but for what the host may set in IDLE: CFG, the TX fields, TIMEOUT and the buffers. -/
def SameButSettings (s t : State) : Prop :=
  t = { s with cfg := t.cfg, txAddr := t.txAddr, txOpc := t.txOpc, txLen := t.txLen, timeoutLo := t.timeoutLo,
               timeoutHi := t.timeoutHi, mem := t.mem }

theorem SameButSettings.rej {s t : State} (h : SameButSettings s t) : t.rej = s.rej := by rw [h]

theorem SameButSettings.done {s t : State} (h : SameButSettings s t) : t.done = s.done := by rw [h]

/-- A setting lands in IDLE and is rejected in every other phase (R74, R138). -/
theorem writeRw_cases {f : State → State} {s : State} (hf : SameButSettings s (f s)) :
    writeRw f s = reject s ∨ s.phase = .idle ∧ SameButSettings s (writeRw f s) := by
  unfold writeRw
  split
  · next hp => exact .inr ⟨hp, hf⟩
  · exact .inl rfl

/-- What a write to a location does: a command at CMD; elsewhere nothing, a rejection, or in IDLE a setting (R74, R80). -/
theorem writeLoc_cases (l : Loc) (d : Byte) (s : State) :
    l = .cmd ∨ writeLoc l d s = s ∨ writeLoc l d s = reject s ∨
      s.phase = .idle ∧ SameButSettings s (writeLoc l d s) := by
  cases l
  case cmd => exact .inl rfl
  case cfg | txAddr | txOpc | txLen | timeoutLo | timeoutHi | txBuf => 
    dsimp only [writeLoc]
    exact .inr (.inr (writeRw_cases rfl))
  all_goals exact .inr (.inl rfl)

/-- What a command does (R130, R133, R136, R137): nothing, a rejection, ABORT, or in IDLE a START or a CLEAR. -/
theorem issueCommand_cases (d : Byte) (s : State) :
    issueCommand d s = s ∨ issueCommand d s = reject s ∨ issueCommand d s = abortCommand s ∨
      s.phase = .idle ∧
        (d = 0x01 ∧ issueCommand d s = startCommand s ∨ d = 0x03 ∧ issueCommand d s = clearCompletion s) := by
  unfold issueCommand
  split_ifs with h1 h2 h3 h0
  · by_cases hp : s.phase = .idle
    · exact .inr (.inr (.inr ⟨hp, .inl ⟨h1, rfl⟩⟩))
    · exact .inr (.inl (if_neg hp))
  · exact .inr (.inr (.inl rfl))
  · by_cases hp : s.phase = .idle
    · exact .inr (.inr (.inr ⟨hp, .inr ⟨h3, if_pos hp⟩⟩))
    · exact .inr (.inl (if_neg hp))
  · exact .inl rfl
  · exact .inr (.inl rfl)

/-- What a host write does, by address, data byte and phase. -/
theorem hostWrite_cases (a : HostAddr) (d : Byte) (s : State) :
    hostWrite a d s = s ∨ hostWrite a d s = reject s ∨ hostWrite a d s = abortCommand s ∨
      s.phase = .idle ∧ (a = 0 ∧ d = 0x01 ∧ hostWrite a d s = startCommand s ∨
        a = 0 ∧ d = 0x03 ∧ hostWrite a d s = clearCompletion s ∨ SameButSettings s (hostWrite a d s)) := by
  rcases writeLoc_cases (locOf a) d s with hcmd | hw | hw | ⟨hp, hw⟩
  · obtain rfl := locOf_cmd hcmd
    obtain hi | hi | hi | ⟨hp, ⟨hd, hi⟩ | ⟨hd, hi⟩⟩ := issueCommand_cases d s
    · exact .inl hi
    · exact .inr (.inl hi)
    · exact .inr (.inr (.inl hi))
    · exact .inr (.inr (.inr ⟨hp, .inl ⟨rfl, hd, hi⟩⟩))
    · exact .inr (.inr (.inr ⟨hp, .inr (.inl ⟨rfl, hd, hi⟩)⟩))
  · exact .inl hw
  · exact .inr (.inl hw)
  · exact .inr (.inr (.inr ⟨hp, .inr (.inr hw)⟩))

/-! ### REJ and DONE under the commands and the bus events -/

@[simp] theorem abortCommand_rej (s : State) : (abortCommand s).rej = s.rej := by
  unfold abortCommand
  split
  · rfl
  · rfl
  · split <;> rfl
  · rfl

theorem startCommand_rej {s : State} (h : s.phase = .idle) : (startCommand s).rej = s.rej := by
  unfold startCommand
  rw [if_pos h]
  split <;> rfl

theorem abortCommand_done {s : State} (h : s.done = true) : (abortCommand s).done = true := by
  unfold abortCommand
  split
  · exact h
  · exact h
  · split <;> exact h
  · rfl

theorem onTxAccept_done (s : State) : (onTxAccept s).done = s.done := by
  unfold onTxAccept; split <;> [split; skip] <;> rfl

theorem onTxIdle_done {s : State} (h : s.done = true) : (onTxIdle s).done = true := by
  unfold onTxIdle
  split
  · split
    · rfl
    · split
      · rfl
      · exact h
  · exact h

theorem onTick_done {s : State} (h : s.done = true) : (onTick s).done = true := by
  unfold onTick
  split
  · split
    · rfl
    · exact h
  · exact h

theorem onRxByte_done (b : Byte) {s : State} (h : s.done = true) : (onRxByte b s).done = true := by
  unfold onRxByte
  split
  · exact h
  · exact h
  · exact h
  · exact h
  · unfold rxM2Byte; split <;> [exact h; rfl]
  · unfold rxAddrByte; split <;> [rfl; exact h]
  · unfold rxLenByte; split <;> [rfl; exact h]
  · exact h
  · simpa [rxPayByte] using h
  · unfold rxCsumByte; split <;> rfl

/-- A host write turns REJ off only as a CLEAR in IDLE (R36, R135). -/
theorem hostWrite_drops_rej {a : HostAddr} {d : Byte} {s : State} (hs : s.rej = true)
    (ht : (hostWrite a d s).rej = false) : s.phase = .idle ∧ a = 0 ∧ d = 0x03 := by
  rcases hostWrite_cases a d s with hw | hw | hw | ⟨hp, ⟨-, -, hw⟩ | ⟨ha, hd, -⟩ | hw⟩
  · simp [hw, hs] at ht
  · simp [hw] at ht
  · simp [hw, hs] at ht
  · simp [hw, startCommand_rej hp, hs] at ht
  · exact ⟨hp, ha, hd⟩
  · simp [hw.rej, hs] at ht

/-- A host write turns DONE off only as a START or a CLEAR in IDLE (R33, R132, R135). -/
theorem hostWrite_drops_done {a : HostAddr} {d : Byte} {s : State} (hs : s.done = true)
    (ht : (hostWrite a d s).done = false) : s.phase = .idle ∧ a = 0 ∧ (d = 0x01 ∨ d = 0x03) := by
  rcases hostWrite_cases a d s with hw | hw | hw | ⟨hp, ⟨ha, hd, -⟩ | ⟨ha, hd, -⟩ | hw⟩
  · simp [hw, hs] at ht
  · simp [hw, hs] at ht
  · simp [hw, abortCommand_done hs] at ht
  · exact ⟨hp, ha, .inl hd⟩
  · exact ⟨hp, ha, .inr hd⟩
  · simp [hw.done, hs] at ht

/-! ### When a step can drop a flag that bus events keep -/

/-- Once `flag` is set no bus event turns it off, and it does not depend on the model's own fields (log 6). -/
structure KeptByBus (flag : State → Bool) : Prop where
  rxByte   : ∀ b s, flag s = true → flag (onRxByte b s) = true
  txAccept : ∀ s, flag s = true → flag (onTxAccept s) = true
  txIdle   : ∀ s, flag s = true → flag (onTxIdle s) = true
  tick     : ∀ s, flag s = true → flag (onTick s) = true
  own      : ∀ s h w ins, flag { s with hRData := h, sent := w, inputs := ins } = flag s

theorem rej_keptByBus : KeptByBus State.rej where
  rxByte := fun b s h => (onRxByte_frame b s).rej.trans h
  txAccept := fun s h => (onTxAccept_frame s).rej.trans h
  txIdle := fun s h => (onTxIdle_frame s).rej.trans h
  tick := fun s h => (onTick_frame s).rej.trans h
  own := fun _ _ _ _ => rfl

theorem done_keptByBus : KeptByBus State.done where
  rxByte := fun b _ h => onRxByte_done b h
  txAccept := fun s h => (onTxAccept_done s).trans h
  txIdle := fun _ h => onTxIdle_done h
  tick := fun _ h => onTick_done h
  own := fun _ _ _ _ => rfl

theorem ifLine_keeps {P : State → Prop} {event : State → State} (he : ∀ s, P s → P (event s)) (line : Bool) {s : State}
    (h : P s) : P (ifLine line event s) := by
  cases line
  · exact h
  · exact he s h

section
variable {flag : State → Bool} (hk : KeptByBus flag)
include hk

theorem KeptByBus.takeInput (rest : List Input) (s : State) : flag (takeInput rest s) = flag s := hk.own s _ _ _

theorem KeptByBus.takeBytes (bytes : List Byte) {s : State} (h : flag s = true) : flag (takeBytes bytes s) = true := by
  induction bytes generalizing s with
  | nil => exact h
  | cons b bs ih => exact ih (hk.txAccept s h)

theorem KeptByBus.takeFrame (f : Frame) {s : State} (h : flag s = true) : flag (takeFrame f s) = true := by
  unfold Machine.takeFrame
  split
  · exact h
  · exact hk.takeBytes f.bytes h

theorem KeptByBus.deliverBytes (bytes : List Byte) {s : State} (h : flag s = true) :
    flag (deliverBytes bytes s) = true := by
  induction bytes generalizing s with
  | nil => exact h
  | cons b bs ih => exact ih (hk.rxByte b s h)

theorem KeptByBus.busEvents (c : Cycle) {s : State} (h : flag s = true) : flag (busEvents c s) = true := by
  have hr : flag (ifReceived c.rx s) = true := by
    cases c.rx with
    | none => exact h
    | some b => exact hk.rxByte b s h
  exact ifLine_keeps hk.tick _ (ifLine_keeps hk.txIdle _ (ifLine_keeps hk.txAccept _ hr))

/-- What follows the host access in a cycle keeps the flag. -/
theorem KeptByBus.restOfCycle (c : Cycle) (s0 : State) {s : State} (h : flag s = true) :
    flag (uartTakes c s0 (Machine.busEvents c s)) = true := by
  rw [uartTakes_with]
  exact (hk.own _ _ _ _).trans (hk.busEvents c h)

/-- A step drops a flag that bus events keep only in a cycle of reset, or where the cycle's host write drops it. -/
theorem step_drops_flag {s t : State} (h : step s = .next t) (hs : flag s = true) (ht : flag t = false) :
    ∃ c rest, s.inputs = .cycle c :: rest ∧
      (c.rst = true ∨ ∃ a d, c.host = some (encodeHost true a d) ∧
        flag (takeInput rest s) = true ∧ flag (hostWrite a d (takeInput rest s)) = false) := by
  have taken (rest : List Input) : flag (takeInput rest s) = true := (hk.takeInput rest s).trans hs
  have off : flag t ≠ true := Bool.eq_false_iff.1 ht
  obtain ⟨-, rfl⟩ | ⟨c, rest, hi, hr, -⟩ | ⟨c, rest, -, -, -, rfl⟩ | ⟨c, rest, w, hi, -, hw, he, rfl⟩ |
    ⟨c, rest, w, -, -, -, rfl⟩ | ⟨bytes, rest, f, -, -, rfl⟩ | ⟨bytes, rest, f, -, -, rfl⟩ := step_next_cases h
  · exact absurd ((hk.own s _ _ _).trans hs) off
  · exact ⟨c, rest, hi, .inl hr⟩
  · exact absurd (hk.restOfCycle c _ (taken rest)) off
  · exact ⟨c, rest, hi, .inr ⟨w.addr, w.data, he ▸ hw, taken rest,
      Bool.eq_false_iff.2 fun hwr => off (hk.restOfCycle c _ hwr)⟩⟩
  · exact absurd (hk.restOfCycle c _ ((hk.own _ _ _ _).trans (taken rest))) off
  · exact absurd (hk.takeFrame f (taken rest)) off
  · exact absurd (hk.deliverBytes f.bytes (taken rest)) off

end

/-- Settles O29: bus events keep REJ, and only a CLEAR in IDLE is a host write that drops it. -/
theorem rejIsSticky : Obligations.RejIsSticky := by
  intro s t h hs ht
  obtain ⟨c, rest, hi, hr | ⟨a, d, hc, hset, hdrop⟩⟩ := step_drops_flag rej_keptByBus h hs ht
  · exact ⟨c, rest, hi, .inl hr⟩
  · obtain ⟨hp, rfl, rfl⟩ := hostWrite_drops_rej hset hdrop
    exact ⟨c, rest, hi, .inr ⟨hc, hp⟩⟩

/-- Settles O30: bus events keep DONE, and only a START or a CLEAR in IDLE is a host write that drops it. -/
theorem doneClearedOnlyByStartClearReset : Obligations.DoneClearedOnlyByStartClearReset := by
  intro s t h hs ht
  obtain ⟨c, rest, hi, hr | ⟨a, d, hc, hset, hdrop⟩⟩ := step_drops_flag done_keptByBus h hs ht
  · exact ⟨c, rest, hi, .inl hr⟩
  · obtain ⟨hp, rfl, rfl | rfl⟩ := hostWrite_drops_done hset hdrop
    · exact ⟨c, rest, hi, .inr ⟨hp, .inl hc⟩⟩
    · exact ⟨c, rest, hi, .inr ⟨hp, .inr hc⟩⟩

end Sys2Proof.Machine
end

section
/-! SUPPORT. What a host read returns (O14), the reserved addresses (O15), TIMEOUT as the host sees it (O19), and how the
block leaves IDLE (O31). -/

namespace Sys2Proof.Machine

/-! ### Reserved addresses (R80) -/

theorem hostRead_of_reserved {a : HostAddr} (h : locOf a = .reserved) (s : State) : hostRead s a = 0x00 :=
  congrArg (readLoc s) h

theorem hostWrite_of_reserved {a : HostAddr} (h : locOf a = .reserved) (d : Byte) (s : State) : hostWrite a d s = s :=
  congrArg (writeLoc · d s) h

theorem exec_hostRd (a : HostAddr) (s : State) : exec (.hostRd a) s = .next { s with hRData := some (hostRead s a) } :=
  rfl

theorem exec_hostWr (a : HostAddr) (d : Byte) (s : State) : exec (.hostWr a d) s = .next (hostWrite a d s) := rfl

/-- Settles O15: each such address maps to the reserved location, whose read is 0x00 and whose write is the identity. -/
theorem reservedAddressesInert : Obligations.ReservedAddressesInert := by
  intro s a d h
  have hl : locOf a = .reserved := locOf_reserved h
  rw [exec_hostRd, exec_hostWr, hostRead_of_reserved hl, hostWrite_of_reserved hl]
  exact ⟨rfl, rfl⟩

/-! ### What a host read returns (R73) -/

/-- No location holds the data on H_RDATA (log 6). -/
@[simp] theorem hostRead_with_hRData (s : State) (h : Option Byte) (a : HostAddr) :
    hostRead { s with hRData := h } a = hostRead s a := by
  unfold hostRead
  cases locOf a <;> rfl

theorem hostRead_txBuf {i : Nat} (h : i < 253) (s : State) : hostRead s (BitVec.ofNat 10 (0x100 + i)) = s.txBuf i :=
  congrArg (readLoc s) (locOf_ofNat_txBuf h)

theorem hostRead_rxBuf {i : Nat} (h : i < 253) (s : State) : hostRead s (BitVec.ofNat 10 (0x200 + i)) = s.rxBuf i :=
  congrArg (readLoc s) (locOf_ofNat_rxBuf h)

/-- The codes of the faults as FAULT_CODE reads (R280). -/
def faultCodeNumbers : List (FaultCode × Byte) :=
  [(.none, 0), (.invalidAddress, 1), (.payloadTooLong, 2), (.framing, 3), (.addrMismatch, 4), (.length, 5),
   (.checksum, 6), (.timeout, 7), (.aborted, 8)]

theorem FaultCode.code_mem_faultCodeNumbers (f : FaultCode) : (f, f.code.setWidth 8) ∈ faultCodeNumbers := by
  cases f <;> decide

/-- The codes of the phases as PHASE and FAULT_PHASE read (R21). -/
def phaseNumbers : List (Phase × Byte) :=
  [(.idle, 0), (.tx, 1), (.turn, 2), (.rxM1, 3), (.rxM2, 4), (.rxAddr, 5), (.rxLen, 6), (.rxErr, 7), (.rxPay, 8),
   (.rxCsum, 9)]

theorem Phase.code_mem_phaseNumbers (p : Phase) : (p, p.code.setWidth 8) ∈ phaseNumbers := by
  cases p <;> decide

/-- Settles O14: the read of each register by the map, the codes by their tables, the buffers and the reserved
addresses by range. -/
theorem hostReadReturns : Obligations.HostReadReturns := by
  refine ⟨fun s a => exec_hostRd a s, fun s t a h => ?_, fun s => ?_⟩
  · cases h
    simp only [exec_hostRd, hostRead_with_hRData]
  · refine ⟨rfl, rfl, rfl, rfl, rfl, rfl, rfl, rfl, s.faultCode.code_mem_faultCodeNumbers, fun pb hpb => ?_, rfl, rfl,
      rfl, rfl, rfl, rfl, rfl, fun i hi => ⟨hostRead_txBuf hi s, hostRead_rxBuf hi s⟩,
      fun a ha => hostRead_of_reserved (locOf_reserved (by omega)) s⟩
    obtain rfl | rfl := List.mem_pair.1 hpb
    · exact s.phase.code_mem_phaseNumbers
    · exact s.faultPhase.code_mem_phaseNumbers

/-! ### TIMEOUT (R30, R75) -/

/-- TIMEOUT as a number: its high byte times 256 and its low byte (R75). -/
theorem timeout_toNat (s : State) : s.timeout.toNat = s.timeoutHi.toNat * 256 + s.timeoutLo.toNat := by
  rw [State.timeout, BitVec.toNat_append, ← Nat.shiftLeft_add_eq_or_of_lt s.timeoutLo.isLt, Nat.shiftLeft_eq]

/-- A 16-bit value is its bytes put together. -/
theorem hiByte_append_loByte (v : BitVec 16) : v.extractLsb' 8 8 ++ v.extractLsb' 0 8 = v :=
  (BitVec.extractLsb'_append_extractLsb'_eq_extractLsb' rfl).trans BitVec.extractLsb'_eq_self

theorem writeRw_of_idle {s : State} (h : s.phase = .idle) (f : State → State) : writeRw f s = f s := if_pos h

theorem exec_hostWr_timeoutLo {s : State} (h : s.phase = .idle) (d : Byte) :
    exec (.hostWr 0x005 d) s = .next { s with timeoutLo := d } :=
  congrArg Host.Outcome.next (writeRw_of_idle h fun s => { s with timeoutLo := d })

theorem exec_hostWr_timeoutHi {s : State} (h : s.phase = .idle) (d : Byte) :
    exec (.hostWr 0x006 d) s = .next { s with timeoutHi := d } :=
  congrArg Host.Outcome.next (writeRw_of_idle h fun s => { s with timeoutHi := d })

theorem execAll_cons_of_next {i : Instr} {s t : State} (h : exec i s = .next t) (is : List Instr) :
    execAll (i :: is) s = execAll is t := by
  simp only [execAll, h]

/-- `settimeout v` in IDLE (R115): its two writes and nothing else. -/
theorem execAll_pseudoSetTimeout {s : State} (h : s.phase = .idle) (v : BitVec 16) :
    execAll (pseudoSetTimeout v) s =
      .next { s with timeoutLo := v.extractLsb' 0 8, timeoutHi := v.extractLsb' 8 8 } := by
  have lo := exec_hostWr_timeoutLo h (v.extractLsb' 0 8)
  have hi := exec_hostWr_timeoutHi (s := { s with timeoutLo := v.extractLsb' 0 8 }) h (v.extractLsb' 8 8)
  rw [pseudoSetTimeout, execAll_cons_of_next lo, execAll_cons_of_next hi]
  rfl

/-- Settles O19, from TIMEOUT as a number and the whole state `settimeout` leaves. -/
theorem timeoutLittleEndian : Obligations.TimeoutLittleEndian :=
  ⟨timeout_toNat, fun _ v h => ⟨_, execAll_pseudoSetTimeout h v, hiByte_append_loByte v, rfl, rfl, rfl⟩⟩

/-! ### Leaving IDLE (R86, R132, R250) -/

/-- Whether the block is in IDLE, as a flag of its state. -/
def State.isIdle (s : State) : Bool := !s.busy

@[simp] theorem isIdle_eq_true_iff {s : State} : s.isIdle = true ↔ s.phase = .idle := by
  simp [State.isIdle, State.busy]

theorem not_isRx_of_idle {s : State} (h : s.phase = .idle) : s.phase.isRx = false := by rw [h]; rfl

/-- No bus event has an effect in IDLE (R166, R254, R258, R260). -/
theorem isIdle_keptByBus : KeptByBus State.isIdle where
  rxByte := fun b s h => by rwa [onRxByte_of_not_rx (not_isRx_of_idle (isIdle_eq_true_iff.1 h))]
  txAccept := fun s h => by rwa [onTxAccept_of_ne (by rw [isIdle_eq_true_iff.1 h]; decide)]
  txIdle := fun s h => by rwa [onTxIdle_of_ne (by rw [isIdle_eq_true_iff.1 h]; decide)]
  tick := fun s h => by rwa [onTick_of_not_rx (not_isRx_of_idle (isIdle_eq_true_iff.1 h))]
  own := fun _ _ _ _ => rfl

theorem SameButSettings.phase {s t : State} (h : SameButSettings s t) : t.phase = s.phase := by rw [h]

theorem abortCommand_of_idle {s : State} (h : s.phase = .idle) : abortCommand s = s := by
  simp [abortCommand, h]

/-- `start_check()` passes on a legal address and a payload that fits (R131). -/
theorem startCheck_eq_none_iff (s : State) : startCheck s = none ↔ s.txAddr ≠ 0xFF ∧ s.txLen.toNat ≤ 253 := by
  unfold startCheck
  split_ifs with ha hl
  · exact ⟨nofun, fun h => absurd ha h.1⟩
  · exact ⟨nofun, fun h => absurd hl (Nat.not_lt.2 h.2)⟩
  · exact ⟨fun _ => ⟨ha, Nat.not_lt.1 hl⟩, fun _ => rfl⟩

/-- A START that fails its check ends the exchange in IDLE (R132). -/
theorem startCommand_leaves_idle {s : State} (hp : s.phase = .idle) (ht : (startCommand s).phase ≠ .idle) :
    startCheck s = none := by
  rw [startCommand, if_pos hp] at ht
  cases hc : startCheck s with
  | none => rfl
  | some f => simp [hc] at ht

/-- A host write leaves IDLE only as a START that passes its check. -/
theorem hostWrite_leaves_idle {a : HostAddr} {d : Byte} {s : State} (hp : s.phase = .idle)
    (ht : (hostWrite a d s).phase ≠ .idle) : a = 0 ∧ d = 0x01 ∧ startCheck s = none := by
  rcases hostWrite_cases a d s with hw | hw | hw | ⟨-, ⟨ha, hd, hw⟩ | ⟨-, -, hw⟩ | hw⟩
  · simp [hw, hp] at ht
  · simp [hw, hp] at ht
  · simp [hw, abortCommand_of_idle hp, hp] at ht
  · exact ⟨ha, hd, startCommand_leaves_idle hp (hw ▸ ht)⟩
  · simp [hw, hp] at ht
  · simp [hw.phase, hp] at ht

/-- A cycle with RST = 1 ends in IDLE (R320). -/
theorem step_phase_of_rst {s t : State} {c : Cycle} {rest : List Input} (h : step s = .next t)
    (hi : s.inputs = .cycle c :: rest) (hr : c.rst = true) : t.phase = .idle := by
  simp only [step, hi, runInput, runCycle, hr, if_true, thenEvents] at h
  cases h
  rw [uartTakes_phase]
  rfl

/-- Settles O31: bus events keep IDLE, a reset ends in it, and only a START that passes its check is a host write that
leaves it. -/
theorem onlyStartLeavesIdle : Obligations.OnlyStartLeavesIdle := by
  intro s t h hs ht
  have busy : t.isIdle = false := Bool.eq_false_iff.2 fun hidle => ht (isIdle_eq_true_iff.1 hidle)
  obtain ⟨c, rest, hi, hc⟩ := step_drops_flag isIdle_keptByBus h (isIdle_eq_true_iff.2 hs) busy
  have hr : c.rst = false := Bool.eq_false_iff.2 fun hr => ht (step_phase_of_rst h hi hr)
  obtain hrst | ⟨a, d, hw, -, hleave⟩ := hc
  · exact absurd (hr.symm.trans hrst) Bool.false_ne_true
  · obtain ⟨rfl, rfl, hcheck⟩ := hostWrite_leaves_idle (s := takeInput rest s) hs fun hidle =>
      absurd (isIdle_eq_true_iff.2 hidle) (Bool.eq_false_iff.1 hleave)
    exact ⟨c, rest, hi, hr, hw, (startCheck_eq_none_iff _).1 hcheck⟩

end Sys2Proof.Machine
end

section
/-! SUPPORT. The host word as a number (O5) and the checksum equation (O34). -/

namespace Sys2Proof.Machine

/-! ### The host word as a number (R110, R111) -/

/-- The high part of two fields side by side counts in units of the low part's size. -/
theorem toNat_append_eq_add {m n : Nat} (x : BitVec m) (y : BitVec n) :
    (x ++ y).toNat = x.toNat * 2 ^ n + y.toNat := by
  rw [BitVec.toNat_append, ← Nat.shiftLeft_add_eq_or_of_lt y.isLt, Nat.shiftLeft_eq]

/-- The word `{W, 0, A, D}` as a number (R110). -/
theorem ofNat_hostFields (w : Bool) (a : HostAddr) (d : Byte) :
    BitVec.ofNat 20 (w.toNat * 2 ^ 19 + a.toNat * 256 + d.toNat) = encodeHost w a d := by
  have hsum : (encodeHost w a d).toNat = w.toNat * 2 ^ 19 + a.toNat * 256 + d.toNat := by
    simp only [encodeHost, toNat_append_eq_add, BitVec.toNat_ofBool, BitVec.toNat_ofNat]
    omega
  rw [← hsum, BitVec.ofNat_toNat, BitVec.setWidth_eq]

theorem decode_hostWr {a : HostAddr} (h : a ≠ 0) (d : Byte) :
    decode (.host (encodeHost true a d)) = .ok (.hostWr a d) :=
  (decodeHost_encodeHost true a d).trans (if_neg h)

theorem decode_hostRd (a : HostAddr) (d : Byte) : decode (.host (encodeHost false a d)) = .ok (.hostRd a) :=
  decodeHost_encodeHost false a d

theorem decode_command (d : Byte) : decode (.host (encodeHost true 0 d)) = .ok (decodeCommand d) :=
  decodeHost_encodeHost true 0 d

/-- A data byte of 4 or more is a reserved command (R111, R137). -/
theorem decodeCommand_of_ge {d : Byte} (h : 4 ≤ d.toNat) : decodeCommand d = .cmdRsvd d := by
  have small : ∀ k : Byte, k.toNat < 4 → d ≠ k := fun k hk hd => by subst hd; omega
  rw [decodeCommand, if_neg (small 0 (by decide)), if_neg (small 1 (by decide)), if_neg (small 2 (by decide)),
    if_neg (small 3 (by decide))]

/-- Settles O5: each number is a word made of its fields, which decodes field by field. -/
theorem hostWordFields : Obligations.HostWordFields := by
  refine ⟨fun a d ha => ?_, fun a => ?_, decode_command 0x00, decode_command 0x01, decode_command 0x02,
    decode_command 0x03, fun d hd => ?_, fun w hw => if_pos hw⟩
  · have hword := ofNat_hostFields true a d
    rw [Bool.toNat_true, Nat.one_mul] at hword
    rw [hword, decode_hostWr ha]
  · have hword : BitVec.ofNat 20 (a.toNat * 256) = encodeHost false a 0 := by simpa using ofNat_hostFields false a 0
    rw [hword, decode_hostRd]
  · have hword : BitVec.ofNat 20 (2 ^ 19 + d.toNat) = encodeHost true 0 d := by simpa using ofNat_hostFields true 0 d
    rw [hword, decode_command, decodeCommand_of_ge hd]

/-! ### The checksum equation (R103) -/

/-- Settles O34: the sum with the checksum byte is the sum plus that byte, and a byte plus its complement is 0xFF. -/
theorem checksumSumsToFF : Obligations.ChecksumSumsToFF := by
  intro bs c
  have hsum : sum8 (bs ++ [c]) = sum8 bs + c := by simp [sum8_append, sum8]
  have hall : sum8 bs + ~~~ sum8 bs = 0xFF := BitVec.add_not_self _
  rw [hsum, ← hall, BitVec.add_right_inj]

end Sys2Proof.Machine
end

section
/-! SUPPORT. A run of bytes written to a buffer, and `load_tx` (O21). -/

namespace Sys2Proof.Machine

/-! ### A run of bytes in memory -/

/-- Bytes written one after another, from address `a` on. -/
def Memory.writeRun : Memory → Nat → List Byte → Memory
  | m, _, [] => m
  | m, a, b :: bs => Memory.writeRun (Memory.write m a b) (a + 1) bs

/-- A run leaves the bytes outside its addresses alone. -/
theorem Memory.byteAt_writeRun_outside (bs : List Byte) (m : Memory) {a x : Nat} (h : ¬ (a ≤ x ∧ x < a + bs.length)) :
    Memory.byteAt (Memory.writeRun m a bs) x = Memory.byteAt m x := by
  induction bs generalizing m a with
  | nil => rfl
  | cons b bs ih =>
    rw [List.length_cons] at h
    rw [Memory.writeRun, ih _ (by omega), Memory.byteAt_write_other _ (by omega)]

/-- A run puts its `k`-th byte at its `k`-th address. -/
theorem Memory.byteAt_writeRun (bs : List Byte) (m : Memory) (a : Nat) {k : Nat} (h : k < bs.length) :
    Memory.byteAt (Memory.writeRun m a bs) (a + k) = bs[k] := by
  induction bs generalizing m a k with
  | nil => exact absurd h (Nat.not_lt_zero k)
  | cons b bs ih =>
    rw [Memory.writeRun]
    cases k with
    | zero => rw [Memory.byteAt_writeRun_outside _ _ (by omega)]; exact Memory.byteAt_write_same m a b
    | succ k =>
      rw [show a + (k + 1) = a + 1 + k by omega]
      exact ih _ (a + 1) (Nat.lt_of_succ_lt_succ h)

/-- Reading a run back. -/
theorem Memory.map_byteAt_writeRun (bs : List Byte) (m : Memory) (a : Nat) :
    ((List.range bs.length).map fun k => Memory.byteAt (Memory.writeRun m a bs) (a + k)) = bs := by
  apply List.ext_getElem
  · simp
  · intro k hk hb
    rw [List.getElem_map, List.getElem_range, Memory.byteAt_writeRun bs m a hb]

/-! ### `load_tx` (R74, R115) -/

theorem exec_hostWr_txAddr {s : State} (h : s.phase = .idle) (d : Byte) :
    exec (.hostWr 0x002 d) s = .next { s with txAddr := d } :=
  congrArg Host.Outcome.next (writeRw_of_idle h fun s => { s with txAddr := d })

theorem exec_hostWr_txOpc {s : State} (h : s.phase = .idle) (d : Byte) :
    exec (.hostWr 0x003 d) s = .next { s with txOpc := d } :=
  congrArg Host.Outcome.next (writeRw_of_idle h fun s => { s with txOpc := d })

theorem exec_hostWr_txLen {s : State} (h : s.phase = .idle) (d : Byte) :
    exec (.hostWr 0x004 d) s = .next { s with txLen := d } :=
  congrArg Host.Outcome.next (writeRw_of_idle h fun s => { s with txLen := d })

theorem exec_hostWr_txBuf {s : State} (h : s.phase = .idle) {i : Nat} (hi : i < 253) (d : Byte) :
    exec (.hostWr (BitVec.ofNat 10 (0x100 + i)) d) s = .next (setTxBuf i d s) := by
  rw [exec_hostWr, hostWrite, locOf_ofNat_txBuf hi, writeLoc, writeRw_of_idle h]

/-- The TX_BUF writes of `load_tx` in IDLE: a run of bytes, and nothing else. -/
theorem execAll_pseudoLoadBuf (ps : List Byte) {s : State} (h : s.phase = .idle) {i : Nat} (hi : i + ps.length ≤ 253) :
    execAll (pseudoLoadBuf i ps) s = .next { s with mem := Memory.writeRun s.mem (0x100 + i) ps } := by
  induction ps generalizing s i with
  | nil => rfl
  | cons p ps ih =>
    rw [List.length_cons] at hi
    rw [pseudoLoadBuf, execAll_cons_of_next (exec_hostWr_txBuf h (by omega) p)]
    exact ih (s := setTxBuf i p s) h (by omega)

/-- What `load_tx` leaves: its arguments in the TX fields and TX_BUF, and everything else as it was. -/
def State.loadTx (addr opc : Byte) (ps : List Byte) (s : State) : State :=
  { s with txAddr := addr, txOpc := opc, txLen := BitVec.ofNat 8 ps.length, mem := Memory.writeRun s.mem 0x100 ps }

theorem execAll_pseudoLoadTx {s : State} (h : s.phase = .idle) (addr opc : Byte) {ps : List Byte}
    (hps : ps.length ≤ 253) : execAll (pseudoLoadTx addr opc ps) s = .next (s.loadTx addr opc ps) := by
  have haddr := exec_hostWr_txAddr h addr
  have hopc := exec_hostWr_txOpc (s := { s with txAddr := addr }) h opc
  have hlen := exec_hostWr_txLen (s := { s with txAddr := addr, txOpc := opc }) h (BitVec.ofNat 8 ps.length)
  rw [pseudoLoadTx, execAll_cons_of_next haddr, execAll_cons_of_next hopc, execAll_cons_of_next hlen]
  exact execAll_pseudoLoadBuf (s := { s with txAddr := addr, txOpc := opc, txLen := _ }) (i := 0) ps h (by omega)

theorem loadTx_txLen_toNat (addr opc : Byte) {ps : List Byte} (h : ps.length ≤ 253) (s : State) :
    (s.loadTx addr opc ps).txLen.toNat = ps.length := by
  rw [State.loadTx, BitVec.toNat_ofNat, Nat.mod_eq_of_lt (by omega)]

/-- The payload of the next instruction frame is the one loaded (R27). -/
theorem loadTx_txPayload (addr opc : Byte) {ps : List Byte} (h : ps.length ≤ 253) (s : State) :
    (s.loadTx addr opc ps).txPayload = ps := by
  rw [State.txPayload, loadTx_txLen_toNat addr opc h]
  exact Memory.map_byteAt_writeRun ps s.mem 0x100

/-- Settles O21, from the whole state `load_tx` leaves. -/
theorem loadTxLoadsTheFrame : Obligations.LoadTxLoadsTheFrame := by
  intro s addr opc ps hs hps
  exact ⟨s.loadTx addr opc ps, execAll_pseudoLoadTx hs addr opc hps, rfl, loadTx_txPayload addr opc hps s,
    fun a ha => Memory.byteAt_writeRun_outside ps s.mem ha⟩

end Sys2Proof.Machine
end

section
/-! SUPPORT. The frame the TX fields make, and the UART taking it whole (O36, O58, O59). -/

namespace Sys2Proof.Machine

/-! ### The frame of the TX fields (R100, R161, R162) -/

theorem frameByte_payload {s : State} {k : Nat} (h : k < s.txLen.toNat) : frameByte s (5 + k) = s.txBuf k := by
  rw [frameByte, if_neg (by omega), if_neg (by omega), if_neg (by omega), if_neg (by omega), if_pos (by omega),
    Nat.add_sub_cancel_left]

theorem frameByte_checksum (s : State) : frameByte s (5 + s.txLen.toNat) = s.txCsum := by
  rw [frameByte, if_neg (by omega), if_neg (by omega), if_neg (by omega), if_neg (by omega), if_neg (by omega),
    if_pos rfl]

/-- The bytes the block presents, by part: header, payload and TX_CSUM. -/
theorem txFrame_eq (s : State) :
    txFrame s = [Config.marker, Config.marker, s.txAddr, s.txLen + 2, s.txOpc] ++ s.txPayload ++ [s.txCsum] := by
  have header : (List.range 5).map (frameByte s) =
      [Config.marker, Config.marker, s.txAddr, s.txLen + 2, s.txOpc] := rfl
  have payload : (List.range s.txLen.toNat).map (fun k => frameByte s (5 + k)) = s.txPayload :=
    List.map_congr_left fun k hk => frameByte_payload (List.mem_range.1 hk)
  rw [txFrame, show s.txLen.toNat + 6 = 5 + s.txLen.toNat + 1 by omega, List.range_succ, List.range_add,
    List.map_append, List.map_append, header, List.map_map, List.map_singleton, frameByte_checksum, ← payload]
  rfl

theorem txPayload_length (s : State) : s.txPayload.length = s.txLen.toNat := by simp [State.txPayload]

/-- With its checksum computed, what the block presents is the frame of its TX fields (R161). -/
theorem txFrame_eq_sentFrameOf {s : State} (h : s.txCsum = frameChecksum s) : txFrame s = (sentFrameOf s).bytes := by
  rw [txFrame_eq, h]
  rfl

/-- The frame of the TX fields is the source's encoding of them (R160). -/
theorem sentFrameOf_bytes (s : State) :
    (sentFrameOf s).bytes = encodeInstruction s.txAddr s.txOpc s.txPayload := by
  have hlen : (BitVec.ofNat 8 (s.txPayload.length + 2) : Byte) = s.txLen + 2 := by
    rw [txPayload_length, BitVec.ofNat_add, BitVec.ofNat_toNat, BitVec.setWidth_eq]
    rfl
  simp only [encodeInstruction, hlen]
  rfl

theorem sentFrameOf_wf {s : State} (h : s.txLen.toNat ≤ 253) : (sentFrameOf s).WF := by
  simp only [Frame.WF, sentFrameOf, List.length_append, List.length_singleton, txPayload_length]
  bv_omega

/-- The bytes of a frame of the right length decode to it (R105). -/
theorem decodeFrame_bytes {f : Frame} (h : f.WF) : decodeFrame f.bytes = .ok f := by
  have hm : Config.marker = Config.marker ∧ Config.marker = Config.marker := ⟨rfl, rfl⟩
  rw [Frame.bytes, decodeFrame, if_pos hm, if_neg (by omega), if_neg (by omega)]

theorem runCode_instrFrame {f : Frame} (h : f.WF) (s : State) :
    runCode (.instrFrame f.bytes) s = .next (takeFrame f s) := by
  have hd : decode (.instrFrame f.bytes) = .ok (instrOfFrame f) := by
    rw [decode, decodeFrame_bytes h]
    rfl
  rw [runCode, hd, ← exec_instrOfFrame]

/-! ### The UART takes a frame (R165, R167) -/

/-- The state after the UART has taken the frame's last byte, `bytes` of it since `s`. -/
def State.frameTaken (bytes : List Byte) (s : State) : State :=
  { s with phase := .turn, idx := BitVec.ofNat 9 (s.txLen.toNat + 5), sent := s.sent ++ bytes }

/-- The frame's last byte (R165): the block turns around. -/
theorem onTxAccept_last {s : State} (hp : s.phase = .tx) (hi : s.idx.toNat = s.txLen.toNat + 5) :
    onTxAccept s = s.frameTaken [frameByte s s.idx.toNat] := by
  have hidx : BitVec.ofNat 9 (s.txLen.toNat + 5) = s.idx := by rw [← hi, BitVec.ofNat_toNat, BitVec.setWidth_eq]
  rw [onTxAccept, if_pos hp, if_pos hi, State.frameTaken, hidx]

/-- The state after the UART has taken a byte before the frame's last. -/
def State.byteTaken (s : State) : State := { s with sent := s.sent ++ [frameByte s s.idx.toNat], idx := s.idx + 1 }

@[simp] theorem byteTaken_txLen (s : State) : s.byteTaken.txLen = s.txLen := rfl

theorem onTxAccept_more {s : State} (hp : s.phase = .tx) (hi : s.idx.toNat ≠ s.txLen.toNat + 5) :
    onTxAccept s = s.byteTaken := by
  rw [onTxAccept, if_pos hp, if_neg hi, State.byteTaken]

/-- The bytes of a frame taken are those before its rest and that rest. -/
theorem byteTaken_frameTaken (s : State) (bytes : List Byte) :
    s.byteTaken.frameTaken bytes = s.frameTaken (frameByte s s.idx.toNat :: bytes) := by
  simp only [State.frameTaken, State.byteTaken, List.append_assoc, List.singleton_append]

/-- As many accepts as the frame has bytes left (R165, R167). -/
theorem takeBytes_rest (bs : List Byte) {s : State} (hp : s.phase = .tx) (hi : s.idx.toNat ≤ s.txLen.toNat + 5)
    (hn : s.idx.toNat + bs.length = s.txLen.toNat + 6) :
    takeBytes bs s = s.frameTaken ((List.range' s.idx.toNat bs.length).map (frameByte s)) := by
  induction bs generalizing s with
  | nil => rw [List.length_nil] at hn; omega
  | cons b bs ih =>
    rw [List.length_cons] at hn
    rw [takeBytes_cons]
    by_cases hlast : s.idx.toNat = s.txLen.toNat + 5
    · obtain rfl : bs = [] := List.length_eq_zero_iff.1 (by omega)
      rw [onTxAccept_last hp hlast, takeBytes_nil]
      rfl
    · have hnext : s.byteTaken.idx.toNat = s.idx.toNat + 1 := by
        have := s.txLen.isLt
        rw [State.byteTaken]
        bv_omega
      have hrest : takeBytes bs s.byteTaken = _ :=
        ih hp (by rw [hnext, byteTaken_txLen]; omega) (by rw [hnext, byteTaken_txLen]; omega)
      rw [onTxAccept_more hp hlast, hrest, hnext, byteTaken_frameTaken]
      rfl

/-- A frame the block presents from its first byte on is taken whole (R167; log 10). -/
theorem takeFrame_presented {f : Frame} {s : State} (hp : s.phase = .tx) (hi : s.idx = 0)
    (hf : txFrame s = f.bytes) : takeFrame f s = s.frameTaken f.bytes := by
  have h0 : s.idx.toNat = 0 := by rw [hi]; rfl
  have hlen : (txFrame s).length = s.txLen.toNat + 6 := by simp [txFrame]
  rw [takeFrame, if_neg (fun h => h.2 hf), ← hf, takeBytes_rest _ hp (by omega) (by omega), h0, hlen,
    ← List.range_eq_range']
  rfl

/-- An instruction that names a sent frame runs as the UART taking it (R107, R160). -/
theorem exec_of_sentFrame {i : Instr} {f : Frame} (h : i.sentFrame = some f) (s : State) :
    exec i s = .next (takeFrame f s) := by
  cases i
  case instrFrame | ping | read | write | reset | syncWrite => cases h; rfl
  all_goals cases h

/-- Settles O36, by induction on the bytes still to be taken. -/
theorem instrFrameIsSent : Obligations.InstrFrameIsSent := by
  intro i f s hf hp hi _ hbytes
  rw [exec_of_sentFrame hf, takeFrame_presented hp hi hbytes]
  rfl

/-! ### START and the taking of the frame -/

theorem execAll_append_of_next {is : List Instr} {s t : State} (h : execAll is s = .next t) (js : List Instr) :
    execAll (is ++ js) s = execAll js t := by
  induction is generalizing s with
  | nil => cases h; rfl
  | cons i is ih =>
    simp only [List.cons_append, execAll] at h ⊢
    cases hi : exec i s with
    | next u => rw [hi] at h; exact ih h
    | fault r => rw [hi] at h; cases h
    | refused r => rw [hi] at h; cases h

/-- An accepted START whose check passes (R132). -/
theorem exec_start_of_idle {s : State} (hp : s.phase = .idle) (ha : s.txAddr ≠ 0xFF) (hl : s.txLen.toNat ≤ 253) :
    exec .start s = .next (beginTx (clearResults s)) := by
  have hc : startCheck s = none := (startCheck_eq_none_iff _).2 ⟨ha, hl⟩
  have hs : startCommand s = beginTx (clearResults s) := by rw [startCommand, if_pos hp, hc]
  exact congrArg Host.Outcome.next hs

/-- After START the UART takes the very frame the TX fields made when START was given (R132, R161, R167). -/
theorem runCode_sentFrameOf {s : State} (hl : s.txLen.toNat ≤ 253) :
    runCode (.instrFrame (sentFrameOf s).bytes) (beginTx (clearResults s)) =
      .next ((beginTx (clearResults s)).frameTaken (sentFrameOf s).bytes) := by
  have presented : txFrame (beginTx (clearResults s)) = (sentFrameOf s).bytes := txFrame_eq_sentFrameOf rfl
  rw [runCode_instrFrame (sentFrameOf_wf hl), takeFrame_presented rfl rfl presented]

/-- Settles O58: the fields `load_tx` leaves make the frame of `encode_instruction`, whatever the opcode. -/
theorem everyOpcodeIsSentUnchanged : Obligations.EveryOpcodeIsSentUnchanged := by
  intro s a opc ps hs ha hps
  have hlen : (s.loadTx a opc ps).txLen.toNat ≤ 253 := (loadTx_txLen_toNat a opc hps s).trans_le hps
  have hbytes : (sentFrameOf (s.loadTx a opc ps)).bytes = encodeInstruction a opc ps := by
    rw [sentFrameOf_bytes, loadTx_txPayload a opc hps]
    rfl
  refine ⟨beginTx (clearResults (s.loadTx a opc ps)), _, ?_, hbytes ▸ runCode_sentFrameOf hlen, rfl, rfl, rfl⟩
  rw [execAll_append_of_next (execAll_pseudoLoadTx hs a opc hps)]
  exact execAll_cons_of_next (exec_start_of_idle (s := s.loadTx a opc ps) hs ha hlen) []

/-! ### The turnaround after a frame (R253) -/

theorem onTxIdle_suppressed {s : State} (hp : s.phase = .turn) (ha : s.abrt = false) (hs : s.suppress = true) :
    onTxIdle s = complete .none .idle s := by
  simp [onTxIdle, hp, ha, hs]

theorem onTxIdle_receive {s : State} (hp : s.phase = .turn) (ha : s.abrt = false) (hs : s.suppress = false) :
    onTxIdle s = { s with tmr := 0, acc := 0x00, m1 := 0x00, phase := .rxM1 } := by
  simp [onTxIdle, hp, ha, hs]

/-- Settles O59: the broadcast address passes START's check, and SUPPRESS alone decides the turnaround. -/
theorem broadcastIsSentLikeAnyAddress : Obligations.BroadcastIsSentLikeAnyAddress := by
  intro s hs ha hl
  have haddr : s.txAddr ≠ 0xFF := by rw [ha]; decide
  refine ⟨_, _, exec_start_of_idle hs haddr hl, runCode_sentFrameOf hl, rfl, fun hsup => ?_, fun hsup => ?_⟩
  · rw [onTxIdle_suppressed (s := (beginTx (clearResults s)).frameTaken _) rfl rfl hsup]
    exact ⟨rfl, rfl, rfl, rfl, rfl, rfl, rfl, rfl, rfl, rfl⟩
  · rw [onTxIdle_receive (s := (beginTx (clearResults s)).frameTaken _) rfl rfl hsup]
    exact ⟨rfl, rfl⟩

end Sys2Proof.Machine
end

section
/-! SUPPORT. A good status frame, part by part (O47). -/

namespace Sys2Proof.Machine

/-! ### The header (R191 to R196) -/

theorem rxM2Byte_good {s : State} (h : s.m1 = Config.marker) :
    rxM2Byte Config.marker s = { s with tmr := 0, phase := .rxAddr } := if_pos ⟨h, rfl⟩

theorem rxAddrByte_good {b : Byte} {s : State} (h : s.txAddr = b) :
    rxAddrByte b s = { s with rxAddr := b, acc := b, tmr := 0, phase := .rxLen } :=
  if_neg (not_not_intro h.symm)

theorem rxLenByte_good {b : Byte} (h : 2 ≤ b.toNat) (s : State) :
    rxLenByte b s = { s with rxLen := b, acc := s.acc + b, tmr := 0, phase := .rxErr } := if_neg (Nat.not_lt.2 h)

/-- The state after a header `FF FF addr len err` from TX_ADDR. -/
def State.headerTaken (len err : Byte) (s : State) : State :=
  { s with m1 := Config.marker, rxAddr := s.txAddr, rxLen := len, rxErr := err, acc := s.txAddr + len + err, tmr := 0,
           phase := if len = 2 then .rxCsum else .rxPay }

theorem deliverBytes_header {s : State} (hp : s.phase = .rxM1) {len : Byte} (hl : 2 ≤ len.toNat) (err : Byte) :
    deliverBytes [Config.marker, Config.marker, s.txAddr, len, err] s = s.headerTaken len err := by
  rw [deliverBytes_cons, onRxByte_rxM1 hp, deliverBytes_cons, onRxByte_rxM2 rfl, rxM2Byte_good rfl, deliverBytes_cons,
    onRxByte_rxAddr rfl, rxAddrByte_good, deliverBytes_cons, onRxByte_rxLen rfl, rxLenByte_good hl,
    deliverBytes_cons, onRxByte_rxErr rfl, deliverBytes_nil]
  · rfl
  · rfl

/-! ### The payload (R198) -/

/-- A payload byte that fits, as a write to RX_BUF and the count of it. -/
theorem rxPayByte_stored {s : State} (h : s.rxCnt.toNat < 253) (b : Byte) :
    rxPayByte b s =
      { s with rxCnt := s.rxCnt + 1, acc := s.acc + b, tmr := 0,
               phase := if (s.rxCnt + 1).toNat + 2 = s.rxLen.toNat then .rxCsum else .rxPay,
               mem := Memory.write s.mem (rxBufAddr s.rxCnt.toNat) b } := by
  have hset : setRxBuf s.rxCnt.toNat b s = { s with mem := Memory.write s.mem (rxBufAddr s.rxCnt.toNat) b } := if_pos h
  rw [rxPayByte, hset]

/-- The state after the payload bytes `bs`, the last ones, have come. -/
def State.payloadTaken (bs : List Byte) (s : State) : State :=
  { s with phase := .rxCsum, rxCnt := s.rxCnt + BitVec.ofNat 8 bs.length, acc := s.acc + sum8 bs,
           mem := Memory.writeRun s.mem (rxBufAddr s.rxCnt.toNat) bs }

/-- The payload bytes still to come, if any, fill RX_BUF in order, and the checksum byte is next. -/
theorem deliverBytes_payload (bs : List Byte) {s : State} (ht : s.tmr = 0)
    (hp : s.phase = if s.rxCnt.toNat + 2 = s.rxLen.toNat then .rxCsum else .rxPay)
    (hl : s.rxCnt.toNat + bs.length + 2 = s.rxLen.toNat) : deliverBytes bs s = s.payloadTaken bs := by
  induction bs generalizing s with
  | nil =>
    rw [if_pos (by simpa using hl)] at hp
    have hcnt : s.rxCnt + BitVec.ofNat 8 0 = s.rxCnt := BitVec.add_zero _
    have hacc : s.acc + sum8 [] = s.acc := BitVec.add_zero _
    rw [deliverBytes_nil, State.payloadTaken, List.length_nil, hcnt, hacc, ← hp, Memory.writeRun]
  | cons b bs ih =>
    rw [List.length_cons] at hl
    have hlen := s.rxLen.isLt
    rw [if_neg (by omega)] at hp
    have hnext : (s.rxCnt + 1).toNat = s.rxCnt.toNat + 1 := by bv_omega
    rw [deliverBytes_cons, onRxByte_rxPay hp, rxPayByte_stored (by omega)]
    refine Eq.trans (ih ?_ ?_ ?_) ?_
    · rfl
    · rfl
    · dsimp only; omega
    · have hcnt : s.rxCnt + 1 + BitVec.ofNat 8 bs.length = s.rxCnt + BitVec.ofNat 8 (bs.length + 1) := by bv_omega
      simp only [State.payloadTaken, List.length_cons, hcnt, hnext, sum8, BitVec.add_assoc, Memory.writeRun, ht,
        rxBufAddr]
      rfl

/-- The state after all of a reply from TX_ADDR but its checksum byte. -/
def State.replyTaken (len err : Byte) (payload : List Byte) (s : State) : State :=
  { s with phase := .rxCsum, m1 := Config.marker, rxAddr := s.txAddr, rxLen := len, rxErr := err,
           rxCnt := BitVec.ofNat 8 payload.length, acc := sum8 ([s.txAddr, len, err] ++ payload), tmr := 0,
           mem := Memory.writeRun s.mem 0x200 payload }

theorem deliverBytes_reply {s : State} (hp : s.phase = .rxM1) (hcnt : s.rxCnt = 0) {len : Byte} {payload : List Byte}
    (hlen : len.toNat = payload.length + 2) (err : Byte) :
    deliverBytes ([Config.marker, Config.marker, s.txAddr, len, err] ++ payload) s = s.replyTaken len err payload := by
  have hstart : len = 2 ↔ s.rxCnt.toNat + 2 = len.toNat := by rw [hcnt, BitVec.toNat_eq, eq_comm]; rfl
  have hphase : (s.headerTaken len err).phase =
      if s.rxCnt.toNat + 2 = len.toNat then .rxCsum else .rxPay := by simp only [State.headerTaken, hstart]
  have hroom : s.rxCnt.toNat + payload.length + 2 = len.toNat := by
    rw [hlen, hcnt]
    exact congrArg (· + 2) (Nat.zero_add _)
  rw [deliverBytes_append, deliverBytes_header hp (by omega) err, deliverBytes_payload payload rfl hphase hroom]
  simp [State.payloadTaken, State.headerTaken, State.replyTaken, hcnt, sum8, BitVec.add_assoc, rxBufAddr]

/-! ### The checksum byte (R199, R200) -/

theorem rxCsumByte_good {s : State} {c : Byte} (h : c = ~~~ s.acc) :
    rxCsumByte c s = succeed { s with rxCsum := c, rxCalc := c } := by
  subst h
  exact if_neg (not_not_intro rfl)

/-- Settles O47: the reply up to its checksum byte fills RX_BUF, and that byte is the complement of the sum kept. -/
theorem goodStatusFrameSucceeds : Obligations.GoodStatusFrameSucceeds := by
  intro s len err payload c hp hcnt hlen hc
  have hacc : sum8 ([s.txAddr, len, err] ++ payload) = ~~~ c := by rw [hc, BitVec.not_not]
  have hbytes : Frame.bytes ⟨s.txAddr, len, err, payload ++ [c]⟩ =
      ([Config.marker, Config.marker, s.txAddr, len, err] ++ payload) ++ [c] := rfl
  refine ⟨Memory.writeRun s.mem 0x200 payload, congrArg Host.Outcome.next ?_, fun k hk => ?_, fun a ha =>
    Memory.byteAt_writeRun_outside payload s.mem ha⟩
  · rw [hbytes, deliverBytes_append, deliverBytes_reply hp hcnt hlen err, deliverBytes_cons, deliverBytes_nil,
      onRxByte_rxCsum rfl, rxCsumByte_good hc, ← hacc]
    rfl
  · rw [Memory.byteAt_writeRun payload s.mem 0x200 hk, List.getD_eq_getElem _ _ hk]

end Sys2Proof.Machine
end

section
/-! SUPPORT. The host's wait loop (O60): which inputs a step runs, DONE only in IDLE, and what a poll reads. -/

namespace Sys2Proof.Machine

/-! ### Inputs that spell something run (I14, R110) -/

/-- Every instruction has a next state in every state (R13). -/
theorem exec_next (i : Instr) (s : State) : ∃ t, exec i s = .next t := by
  cases i <;> exact ⟨_, rfl⟩

theorem runCode_next {code : Code} (h : (decode code).isOk = true) (s : State) : ∃ t, runCode code s = .next t := by
  unfold runCode
  cases hd : decode code with
  | ok i => exact exec_next i s
  | error e => rw [hd] at h; cases h

theorem decode_host_isOk {w : HostWord} (h : w.getLsbD 18 = false) : (decode (.host w)).isOk = true := by
  rw [← encodeHost_fields h, decode, decodeHost_encodeHost]
  split_ifs <;> rfl

theorem runInput_next {i : Input} (h : i.spells = true) (s : State) : ∃ t, runInput i s = .next t := by
  cases i with
  | cycle c =>
    suffices hc : ∃ t, runCycle c s = .next t by
      obtain ⟨t, ht⟩ := hc
      exact ⟨uartTakes c s t, by rw [runInput, ht, thenEvents]⟩
    unfold runCycle
    split
    · exact ⟨_, rfl⟩
    next hrst =>
    cases hw : c.host with
    | none => exact ⟨_, rfl⟩
    | some w =>
      have hbit : w.getLsbD 18 = false := by simpa [Input.spells, hrst, hw] using h
      obtain ⟨t, ht⟩ := runCode_next (decode_host_isOk hbit) s
      exact ⟨busEvents c t, by dsimp only; rw [ht, thenEvents]⟩
  | instrFrame bytes => exact runCode_next h s
  | statusFrame bytes => exact runCode_next h s

theorem stepAll_next {is : List Input} (h : ∀ i ∈ is, i.spells = true) (s : State) : ∃ t, stepAll is s = .next t := by
  induction is generalizing s with
  | nil => exact ⟨s, rfl⟩
  | cons i is ih =>
    obtain ⟨t, ht⟩ : ∃ t, stepOn i s = .next t := runInput_next (h i List.mem_cons_self) _
    rw [stepAll, ht]
    exact ih (fun j hj => h j (List.mem_cons_of_mem i hj)) t

/-- A poll's own cycle spells something: its host word is a read. -/
theorem pollInputs_spell {p : Poll} (h : ∀ i ∈ p.before, i.spells = true) : ∀ i ∈ p.inputs, i.spells = true := by
  intro i hi
  rcases List.mem_append.1 hi with hi | hi
  · exact h i hi
  · rw [List.mem_singleton.1 hi, Input.spells, Option.any_some, encodeHost_bit18]
    exact Bool.or_true _

/-! ### DONE is set only in IDLE (R59 (2)) -/

/-- R59 (2), as a flag of the state. -/
def State.doneOnlyInIdle (s : State) : Bool := !s.done || s.isIdle

theorem doneOnlyInIdle_iff {s : State} : s.doneOnlyInIdle = true ↔ (s.done = true → s.phase = .idle) := by
  simp [State.doneOnlyInIdle, imp_iff_not_or]

theorem doneOnlyInIdle_of_idle {s : State} (h : s.phase = .idle) : s.doneOnlyInIdle = true :=
  doneOnlyInIdle_iff.2 fun _ => h

theorem doneOnlyInIdle_of_not_done {s : State} (h : s.done = false) : s.doneOnlyInIdle = true :=
  doneOnlyInIdle_iff.2 fun hd => absurd (h.symm.trans hd) Bool.false_ne_true

/-- A change that does nothing in IDLE, and either keeps DONE or ends in IDLE, keeps R59 (2). -/
theorem doneOnlyInIdle_kept {s t : State} (h : s.doneOnlyInIdle = true) (hi : s.phase = .idle → t = s)
    (hb : t.done = s.done ∨ t.phase = .idle) : t.doneOnlyInIdle = true := by
  by_cases hp : s.phase = .idle
  · rwa [hi hp]
  · have hd : s.done = false := Bool.eq_false_iff.2 fun hd => hp (doneOnlyInIdle_iff.1 h hd)
    rcases hb with ht | ht
    · exact doneOnlyInIdle_of_not_done (ht.trans hd)
    · exact doneOnlyInIdle_of_idle ht

theorem onRxByte_done_or_idle (b : Byte) (s : State) : (onRxByte b s).done = s.done ∨ (onRxByte b s).phase = .idle := by
  unfold onRxByte
  split
  · exact .inl rfl
  · exact .inl rfl
  · exact .inl rfl
  · exact .inl rfl
  · unfold rxM2Byte; split <;> [exact .inl rfl; exact .inr rfl]
  · unfold rxAddrByte; split <;> [exact .inr rfl; exact .inl rfl]
  · unfold rxLenByte; split <;> [exact .inr rfl; exact .inl rfl]
  · exact .inl rfl
  · exact .inl (setRxBuf_done _ _ _)
  · unfold rxCsumByte; split <;> exact .inr rfl

theorem onTxIdle_done_or_idle (s : State) : (onTxIdle s).done = s.done ∨ (onTxIdle s).phase = .idle := by
  unfold onTxIdle
  split
  · split
    · exact .inr rfl
    · split
      · exact .inr rfl
      · exact .inl rfl
  · exact .inl rfl

theorem onTick_done_or_idle (s : State) : (onTick s).done = s.done ∨ (onTick s).phase = .idle := by
  unfold onTick
  split
  · split
    · exact .inr rfl
    · exact .inl rfl
  · exact .inl rfl

theorem abortCommand_done_or_idle (s : State) : (abortCommand s).done = s.done ∨ (abortCommand s).phase = .idle := by
  unfold abortCommand
  split
  · exact .inl rfl
  · exact .inl rfl
  · split <;> exact .inl rfl
  · exact .inr rfl

theorem startCommand_done_or_idle {s : State} (h : s.phase = .idle) :
    (startCommand s).done = false ∨ (startCommand s).phase = .idle := by
  rw [startCommand, if_pos h]
  split
  · exact .inr rfl
  · exact .inl rfl

/-! ### No bus event has an effect in IDLE (R166, R254, R258, R260) -/

theorem onRxByte_of_idle {s : State} (h : s.phase = .idle) (b : Byte) : onRxByte b s = s :=
  onRxByte_of_not_rx (not_isRx_of_idle h) b

theorem onTxAccept_of_idle {s : State} (h : s.phase = .idle) : onTxAccept s = s :=
  onTxAccept_of_ne (by rw [h]; decide)

theorem onTxIdle_of_idle {s : State} (h : s.phase = .idle) : onTxIdle s = s :=
  onTxIdle_of_ne (by rw [h]; decide)

theorem onTick_of_idle {s : State} (h : s.phase = .idle) : onTick s = s :=
  onTick_of_not_rx (not_isRx_of_idle h)

theorem doneOnlyInIdle_keptByBus : KeptByBus State.doneOnlyInIdle where
  rxByte := fun b s h => doneOnlyInIdle_kept h (onRxByte_of_idle · b) <| onRxByte_done_or_idle b s
  txAccept := fun s h => doneOnlyInIdle_kept h onTxAccept_of_idle <| .inl (onTxAccept_done s)
  txIdle := fun s h => doneOnlyInIdle_kept h onTxIdle_of_idle <| onTxIdle_done_or_idle s
  tick := fun s h => doneOnlyInIdle_kept h onTick_of_idle <| onTick_done_or_idle s
  own := fun _ _ _ _ => rfl

theorem hostWrite_doneOnlyInIdle {s : State} (h : s.doneOnlyInIdle = true) (a : HostAddr) (d : Byte) :
    (hostWrite a d s).doneOnlyInIdle = true := by
  rcases hostWrite_cases a d s with hw | hw | hw | ⟨hp, ⟨-, -, hw⟩ | ⟨-, -, hw⟩ | hw⟩
  · rwa [hw]
  · rw [hw]; exact h
  · rw [hw]; exact doneOnlyInIdle_kept h abortCommand_of_idle <| abortCommand_done_or_idle s
  · rw [hw]; exact (startCommand_done_or_idle hp).elim doneOnlyInIdle_of_not_done doneOnlyInIdle_of_idle
  · rw [hw]; exact doneOnlyInIdle_of_idle hp
  · exact doneOnlyInIdle_of_idle (hw.phase.trans hp)

/-- Every step keeps R59 (2). -/
theorem step_doneOnlyInIdle {s t : State} (h : step s = .next t) (hs : s.doneOnlyInIdle = true) :
    t.doneOnlyInIdle = true := by
  by_contra ht
  obtain ⟨c, rest, hi, hr | ⟨a, d, -, hset, hdrop⟩⟩ :=
    step_drops_flag doneOnlyInIdle_keptByBus h hs (Bool.eq_false_iff.2 ht)
  · exact ht (doneOnlyInIdle_of_idle (step_phase_of_rst h hi hr))
  · exact Bool.eq_false_iff.1 hdrop (hostWrite_doneOnlyInIdle hset a d)

theorem stepAll_doneOnlyInIdle {is : List Input} {s t : State} (h : stepAll is s = .next t)
    (hs : s.doneOnlyInIdle = true) : t.doneOnlyInIdle = true := by
  induction is generalizing s with
  | nil => cases h; exact hs
  | cons i is ih =>
    rw [stepAll] at h
    cases hu : stepOn i s with
    | next u => rw [hu] at h; exact ih h (step_doneOnlyInIdle hu hs)
    | fault r => rw [hu] at h; cases h
    | refused r => rw [hu] at h; cases h

/-! ### What a poll reads -/

/-- What a poll's cycle without reset leaves (R261, R262). -/
def State.polled (c : Cycle) (s : State) : State := uartTakes c s (busEvents c { s with hRData := some s.status })

theorem polled_hRData (c : Cycle) (s : State) : (s.polled c).hRData = some s.status := by
  rw [State.polled, uartTakes_hRData, (busEvents_frame c _).hRData]

/-- A poll reads DONE as the cycle finds it (R31, R261). -/
theorem polled_readDone (c : Cycle) (s : State) : (s.polled c).readDone = s.done := by
  rw [State.readDone, polled_hRData]
  exact status_getLsbD s 1

theorem busEvents_of_idle {s : State} (h : s.phase = .idle) (c : Cycle) : busEvents c s = s := by
  have hrx : ifReceived c.rx s = s := by
    cases c.rx with
    | none => rfl
    | some b => exact onRxByte_of_idle h b
  simp only [busEvents, hrx, ifLine, onTxAccept_of_idle h, onTxIdle_of_idle h, onTick_of_idle h, ite_self]

/-- In IDLE a poll changes nothing but H_RDATA. -/
theorem polled_of_idle {s : State} (h : s.phase = .idle) (c : Cycle) :
    s.polled c = { s with hRData := some s.status } := by
  have hv : s.txValid = false := decide_eq_false (by rw [h]; decide)
  rw [State.polled, busEvents_of_idle (s := { s with hRData := some s.status }) h,
    uartTakes_eq fun _ ht => absurd (hv.symm.trans ht) Bool.false_ne_true]

/-- The last step of a poll: a read of STATUS, or in a cycle of reset a read of 0x00. -/
theorem stepAll_poll {p : Poll} {s t : State} (h : stepAll p.inputs s = .next t) :
    ∃ u, stepAll p.before s = .next u ∧ (t = u.polled p.cycle ∨ t.readDone = false) := by
  rw [Poll.inputs, stepAll_append] at h
  cases hu : stepAll p.before s with
  | next u =>
    simp only [hu, stepAll_one] at h
    refine ⟨u, rfl, ?_⟩
    cases hr : p.cycle.rst with
    | false => rw [stepOn_poll hr] at h; cases h; exact .inl rfl
    | true =>
      obtain ⟨v, hv, hd⟩ := stepOn_poll_reset hr u
      rw [hv] at h; cases h; exact .inr hd
  | fault r => rw [hu] at h; cases h
  | refused r => rw [hu] at h; cases h

theorem stepAll_poll_alone {c : Cycle} (h : c.rst = false) (s : State) :
    stepAll (Poll.inputs ⟨[], c⟩) s = .next (s.polled c) :=
  (stepAll_one _ s).trans (stepOn_poll h s)

/-! ### One turn of `wait_done` (R115) -/

theorem pseudoWaitDone_cons {p : Poll} {s u : State} (h : stepAll p.inputs s = .next u) (ps : List Poll) :
    pseudoWaitDone (p :: ps) s = if u.readDone then .next (true, u) else pseudoWaitDone ps u := by
  rw [pseudoWaitDone, h]

theorem pseudoWaitDone_cons_inv {p : Poll} {ps : List Poll} {s : State} {r : Bool × State}
    (h : pseudoWaitDone (p :: ps) s = .next r) :
    ∃ u, stepAll p.inputs s = .next u ∧
      (u.readDone = true ∧ r = (true, u) ∨ u.readDone = false ∧ pseudoWaitDone ps u = .next r) := by
  cases hu : stepAll p.inputs s with
  | next u =>
    rw [pseudoWaitDone_cons hu] at h
    refine ⟨u, rfl, ?_⟩
    split at h
    · next hd => cases h; exact .inl ⟨hd, rfl⟩
    · next hd => exact .inr ⟨Bool.eq_false_iff.2 hd, h⟩
  | fault r => rw [pseudoWaitDone, hu] at h; cases h
  | refused r => rw [pseudoWaitDone, hu] at h; cases h

/-- `wait_done` completes when everything around its polls spells something to run. -/
theorem pseudoWaitDone_next (ps : List Poll) (s : State) (h : ∀ p ∈ ps, ∀ i ∈ p.before, i.spells = true) :
    ∃ r, pseudoWaitDone ps s = .next r := by
  induction ps generalizing s with
  | nil => exact ⟨_, rfl⟩
  | cons p ps ih =>
    obtain ⟨u, hu⟩ := stepAll_next (pollInputs_spell (h p List.mem_cons_self)) s
    rw [pseudoWaitDone_cons hu]
    split
    · exact ⟨_, rfl⟩
    · exact ih u fun q hq => h q (List.mem_cons_of_mem p hq)

/-- A poll that finds DONE = 1 ends the wait. -/
theorem pseudoWaitDone_of_done {c : Cycle} {s : State} (hr : c.rst = false) (hd : s.done = true) (ps : List Poll) :
    pseudoWaitDone (⟨[], c⟩ :: ps) s = .next (true, s.polled c) := by
  rw [pseudoWaitDone_cons (stepAll_poll_alone hr s), if_pos ((polled_readDone c s).trans hd)]

/-- A wait that has read DONE ends in IDLE with DONE still set (R33, R59 (2)). -/
theorem pseudoWaitDone_true {ps : List Poll} {s t : State} (hs : s.doneOnlyInIdle = true)
    (h : pseudoWaitDone ps s = .next (true, t)) : t.phase = .idle ∧ t.done = true ∧ t.hRData = some t.status := by
  induction ps generalizing s with
  | nil => cases h
  | cons p ps ih =>
    obtain ⟨v, hv, ⟨hread, hr⟩ | ⟨-, hrest⟩⟩ := pseudoWaitDone_cons_inv h
    · cases hr
      obtain ⟨u, hu, rfl | hnot⟩ := stepAll_poll hv
      · have hdone : u.done = true := (polled_readDone _ u).symm.trans hread
        have hidle : u.phase = .idle := doneOnlyInIdle_iff.1 (stepAll_doneOnlyInIdle hu hs) hdone
        rw [polled_of_idle hidle]
        exact ⟨hidle, hdone, rfl⟩
      · exact absurd (hnot.symm.trans hread) Bool.false_ne_true
    · exact ih (stepAll_doneOnlyInIdle hv hs) hrest

/-- With nothing else happening, polls that read DONE = 0 leave the block as the first one did (R337). -/
theorem pseudoWaitDone_quiet {s : State} (hd : s.done = false) (hh : s.hRData = some s.status) (n : Nat) :
    pseudoWaitDone (List.replicate n ⟨[], Cycle.quiet⟩) s = .next (false, s) := by
  have hsame : s.polled Cycle.quiet = s := by
    show { s with hRData := some s.status } = s
    rw [← hh]
  induction n with
  | zero => rfl
  | succ n ih =>
    rw [List.replicate_succ, pseudoWaitDone_cons (stepAll_poll_alone rfl s), polled_readDone, hd, hsame]
    exact ih

/-- Settles O60, clause by clause: completion, the first DONE, no later poll, the bound, its last reading, the result
under the invariant, and the hang. -/
theorem waitDoneStopsAtFirstDone : Obligations.WaitDoneStopsAtFirstDone := by
  refine ⟨pseudoWaitDone_next, fun c ps s hr hd => ?_, fun ps qs s t h => ?_, fun ps qs s t h => ?_,
    fun p s t h b hb => ?_, fun ps s t hinv h => ?_, fun s n _ hd => ?_⟩
  · exact ⟨_, pseudoWaitDone_of_done hr hd ps, fun hp => polled_of_idle hp c⟩
  · rw [pseudoWaitDone_append, h]
  · rw [pseudoWaitDone_append] at h
    cases hps : pseudoWaitDone ps s with
    | next r =>
      obtain ⟨b, u⟩ := r
      rw [hps] at h
      cases b with
      | false => exact ⟨u, rfl, h⟩
      | true => cases h
    | fault r => rw [hps] at h; cases h
    | refused r => rw [hps] at h; cases h
  · obtain ⟨u, -, ⟨-, hr⟩ | ⟨hread, hr⟩⟩ := pseudoWaitDone_cons_inv h
    · cases hr
    · cases hr
      rwa [State.readDone, hb] at hread
  · exact pseudoWaitDone_true (doneOnlyInIdle_iff.2 hinv.done_idle) h
  · cases n with
    | zero => exact ⟨s, rfl, rfl, nofun⟩
    | succ n =>
      refine ⟨s.polled Cycle.quiet, ?_, rfl, fun _ => rfl⟩
      rw [List.replicate_succ, pseudoWaitDone_cons (stepAll_poll_alone rfl s), polled_readDone, hd]
      exact pseudoWaitDone_quiet (s := s.polled Cycle.quiet) hd rfl n

end Sys2Proof.Machine
end

section
/-! SUPPORT. Host writes to the writable locations and the commands, in IDLE and while busy (O17, O22 to O28). -/

namespace Sys2Proof.Machine

/-! ### Host writes while busy (R138) -/

theorem writeRw_of_busy {s : State} (h : s.phase ≠ .idle) (f : State → State) : writeRw f s = reject s := if_neg h

/-- The registers of 0x001 to 0x006 (R72). -/
def settingRegisters : List Loc := [.cfg, .txAddr, .txOpc, .txLen, .timeoutLo, .timeoutHi]

theorem locOf_mem_settingRegisters {a : HostAddr} (h : 1 ≤ a.toNat) (h' : a.toNat ≤ 6) :
    locOf a ∈ settingRegisters := by
  have registers : ∀ k, k ≤ 6 → 1 ≤ (BitVec.ofNat 10 k).toNat → locOf (BitVec.ofNat 10 k) ∈ settingRegisters := by
    decide
  obtain ⟨k, hk, rfl⟩ := addr_of_le h'
  exact registers k hk h

theorem writeLoc_settingRegister_of_busy {l : Loc} (hl : l ∈ settingRegisters) {s : State} (h : s.phase ≠ .idle)
    (d : Byte) : writeLoc l d s = reject s := by
  unfold settingRegisters at hl
  fin_cases hl
  all_goals
    dsimp only [writeLoc]
    exact writeRw_of_busy h _

/-- Settles O17: each writable address maps to a setting register or a TX_BUF byte, whose write is gated by IDLE. -/
theorem hostWriteRejectedWhileBusy : Obligations.HostWriteRejectedWhileBusy := by
  intro s a d hp ha
  suffices hw : hostWrite a d s = reject s from congrArg Host.Outcome.next hw
  unfold hostWrite
  rcases ha with ⟨hlo, hhi⟩ | hbuf
  · exact writeLoc_settingRegister_of_busy (locOf_mem_settingRegisters hlo hhi) hp d
  · rw [locOf_txBuf hbuf]
    exact writeRw_of_busy hp _

/-! ### The settings of an exchange in flight (R59 (10)) -/

theorem SettingsFrozen.refl (s : State) : SettingsFrozen s s := ⟨rfl, rfl, rfl, rfl, rfl, rfl, fun _ _ => rfl⟩

/-- What no bus event touches includes the settings, the TX fields and TX_BUF, which lies below RX_BUF. -/
theorem BusFrame.settingsFrozen {s t : State} (h : BusFrame s t) : SettingsFrozen s t :=
  ⟨h.cfg, h.txAddr, h.txOpc, h.txLen, h.timeoutLo, h.timeoutHi, fun i hi => h.low _ (by unfold txBufAddr; omega)⟩

theorem abortCommand_settingsFrozen (s : State) : SettingsFrozen s (abortCommand s) := by
  unfold abortCommand
  split
  · exact .refl s
  · exact .refl s
  · split <;> exact .refl s
  · exact .refl s

/-- A host write while busy does nothing, is rejected, or is an ABORT. -/
theorem hostWrite_settingsFrozen_of_busy {s : State} (h : s.phase ≠ .idle) (a : HostAddr) (d : Byte) :
    SettingsFrozen s (hostWrite a d s) := by
  rcases hostWrite_cases a d s with hw | hw | hw | ⟨hidle, -⟩
  · rw [hw]; exact .refl s
  · rw [hw]; exact .refl s
  · rw [hw]; exact abortCommand_settingsFrozen s
  · exact absurd hidle h

/-- Every instruction runs as a host write (a command as a write to CMD), a host read, the UART taking a frame, or the
UART delivering one. -/
theorem exec_cases (i : Instr) (s : State) :
    (∃ a d, exec i s = .next (hostWrite a d s)) ∨
      (∃ a, exec i s = .next { s with hRData := some (hostRead s a) }) ∨
      (∃ f, exec i s = .next (takeFrame f s)) ∨ ∃ f : Frame, exec i s = .next (deliverBytes f.bytes s) := by
  cases i
  case nop => exact .inl ⟨0x000, 0x00, rfl⟩
  case start => exact .inl ⟨0x000, 0x01, rfl⟩
  case abort => exact .inl ⟨0x000, 0x02, rfl⟩
  case clear => exact .inl ⟨0x000, 0x03, rfl⟩
  case cmdRsvd d => exact .inl ⟨0x000, d, rfl⟩
  case hostWr a d => exact .inl ⟨a, d, rfl⟩
  case hostRd a => exact .inr (.inl ⟨a, rfl⟩)
  case statusFrame f => exact .inr (.inr (.inr ⟨f, rfl⟩))
  all_goals exact .inr (.inr (.inl ⟨_, exec_of_sentFrame rfl s⟩))

/-- Settles O22: a host access while busy keeps the settings, and so does every run of bus events. -/
theorem noInstructionChangesBusySettings : Obligations.NoInstructionChangesBusySettings := by
  intro i s t hp h
  obtain ⟨a, d, hx⟩ | ⟨a, hx⟩ | ⟨f, hx⟩ | ⟨f, hx⟩ := exec_cases i s
  all_goals
    rw [hx] at h
    cases h
  · exact hostWrite_settingsFrozen_of_busy hp a d
  · exact .refl s
  · exact (takeFrame_frame f s).settingsFrozen
  · exact (deliverBytes_frame f.bytes s).settingsFrozen

/-! ### Command dispatch (R130, R137) -/

theorem runCode_command (d : Byte) (s : State) :
    runCode (.host (encodeHost true 0x000 d)) s = .next (issueCommand d s) := by
  rw [runCode, decode_command]
  exact exec_decodeCommand d s

/-- Settles O23: the word runs as the dispatch of its data byte, and CMD has no field to read. -/
theorem commandDispatch : Obligations.CommandDispatch := by
  intro d s
  refine ⟨?_, fun _ _ => rfl⟩
  rw [runCode_command]
  split_ifs with h1 h2 h3 h0
  · subst h1; rfl
  · subst h2; rfl
  · subst h3; rfl
  · subst h0; rfl
  · rfl

theorem issueCommand_of_ge {d : Byte} (h : 4 ≤ d.toNat) (s : State) : issueCommand d s = reject s := by
  have small : ∀ k : Byte, k.toNat < 4 → d ≠ k := fun k hk hd => by subst hd; omega
  rw [issueCommand, if_neg (small 1 (by decide)), if_neg (small 2 (by decide)), if_neg (small 3 (by decide)),
    if_neg (small 0 (by decide))]

/-- Settles O24: NOP is the identity, and a byte of 4 or more is dispatched as a rejection. -/
theorem nopAndReservedCommands : Obligations.NopAndReservedCommands :=
  fun s => ⟨rfl, fun _ hd => congrArg Host.Outcome.next (issueCommand_of_ge hd s)⟩

/-! ### START and CLEAR (R131 to R133, R135, R136) -/

theorem startCommand_of_busy {s : State} (h : s.phase ≠ .idle) : startCommand s = reject s := if_neg h

theorem clearCommand_of_busy {s : State} (h : s.phase ≠ .idle) : clearCommand s = reject s := if_neg h

theorem clearCommand_of_idle {s : State} (h : s.phase = .idle) : clearCommand s = clearCompletion s := if_pos h

/-- Settles O26, from both commands' test of PHASE. -/
theorem startAndClearRejectedWhileBusy : Obligations.StartAndClearRejectedWhileBusy :=
  fun _ h => ⟨congrArg Host.Outcome.next (startCommand_of_busy h), congrArg Host.Outcome.next (clearCommand_of_busy h)⟩

/-- Settles O28, from the whole state an accepted CLEAR leaves. -/
theorem clearFromIdle : Obligations.ClearFromIdle := fun _ h => congrArg Host.Outcome.next (clearCommand_of_idle h)

theorem startCheck_of_invalidAddress {s : State} (h : s.txAddr = 0xFF) : startCheck s = some .invalidAddress := if_pos h

theorem startCheck_of_payloadTooLong {s : State} (ha : s.txAddr ≠ 0xFF) (hl : 253 < s.txLen.toNat) :
    startCheck s = some .payloadTooLong := (if_neg ha).trans (if_pos hl)

/-- A completion that starts in IDLE stays there. -/
theorem complete_of_idle {s : State} (h : s.phase = .idle) (f : FaultCode) :
    complete f .idle s = { s with faultCode := f, faultPhase := .idle, deverr := false, done := true, abrt := false,
                                  tmr := 0 } := by
  simp only [complete, ite_self, h]

/-- A START whose check fails ends at once, sending nothing (R132). -/
theorem exec_start_of_fault {s : State} (hp : s.phase = .idle) {f : FaultCode} (hc : startCheck s = some f) :
    exec .start s = .next { clearResults s with faultCode := f, done := true, abrt := false, tmr := 0 } := by
  have hs : startCommand s = complete f .idle (clearResults s) := by rw [startCommand, if_pos hp, hc]
  exact congrArg Host.Outcome.next (hs.trans (complete_of_idle (s := clearResults s) hp f))

/-- Settles O25: the check decides among the two failures and the start of an exchange. -/
theorem startFromIdle : Obligations.StartFromIdle := by
  rintro s hp r rfl
  refine ⟨fun ha => ?_, fun ha hl => ?_, fun ha hl => ?_⟩
  · exact exec_start_of_fault hp (startCheck_of_invalidAddress ha)
  · exact exec_start_of_fault hp (startCheck_of_payloadTooLong ha hl)
  · exact exec_start_of_idle hp ha hl

/-! ### ABORT (R134) -/

theorem abortCommand_of_tx {s : State} (h : s.phase = .tx) :
    abortCommand s = { s with abrt := true, faultPhase := .tx, phase := .turn } := by simp [abortCommand, h]

theorem abortCommand_of_turn {s : State} (h : s.phase = .turn) :
    abortCommand s = if s.abrt then s else { s with abrt := true, faultPhase := .turn } := by simp [abortCommand, h]

theorem abortCommand_of_isRx {s : State} (h : s.phase.isRx = true) :
    abortCommand s = complete .aborted s.phase s := by
  unfold abortCommand
  split
  · next hp => rw [hp] at h; cases h
  · next hp => rw [hp] at h; cases h
  · next hp => rw [hp] at h; cases h
  · rfl

/-- Settles O27, phase by phase, and in TURN by ABRT. -/
theorem abortByPhase : Obligations.AbortByPhase := by
  intro s
  suffices ∀ t, abortCommand s = t → exec .abort s = .next t from
    ⟨fun h => this _ (abortCommand_of_idle h), fun h => this _ (abortCommand_of_tx h),
      fun h ha => this _ ((abortCommand_of_turn h).trans (if_neg (Bool.eq_false_iff.1 ha))),
      fun h ha => this _ ((abortCommand_of_turn h).trans (if_pos ha)), fun h => this _ (abortCommand_of_isRx h)⟩
  exact fun _ h => congrArg Host.Outcome.next h

end Sys2Proof.Machine
end

section
/-! SUPPORT. A `TxAccept` in the terms of the TX_DATA output, and the frame the block does not present (O35, O37). -/

namespace Sys2Proof.Machine

/-- In TX the byte presented is the frame byte at IDX (R56). -/
theorem txData_of_tx {s : State} (h : s.phase = .tx) : s.txData = frameByte s s.idx.toNat := by
  rw [State.txData, State.txValid, decide_eq_true h, if_pos rfl]

/-- Taking the frame's last byte leaves IDX where it is (R165). -/
theorem frameTaken_of_last {s : State} (h : s.idx.toNat = s.txLen.toNat + 5) (bytes : List Byte) :
    s.frameTaken bytes = { s with sent := s.sent ++ bytes, phase := .turn } := by
  rw [State.frameTaken, ← h, BitVec.ofNat_toNat, BitVec.setWidth_eq]

/-- Settles O35, by the byte's place in the frame: the last, one before it, or none outside TX. -/
theorem txAcceptTakesFrameByte : Obligations.TxAcceptTakesFrameByte := by
  refine fun s => ⟨fun hp hlast => ?_, fun hp hmore => ?_, onTxAccept_of_ne⟩
  · rw [onTxAccept_last hp hlast, frameTaken_of_last hlast, txData_of_tx hp]
  · rw [onTxAccept_more hp hmore, State.byteTaken, txData_of_tx hp]

/-- Outside TX the UART takes no frame (R166). -/
theorem takeFrame_of_ne {s : State} (h : s.phase ≠ .tx) (f : Frame) : takeFrame f s = s := by
  rw [takeFrame, if_neg fun hf => h hf.1, takeBytes_of_ne h]

/-- In any phase a frame other than the one the TX fields make is not taken (log 10). -/
theorem takeFrame_not_presented {f : Frame} {s : State} (h : txFrame s ≠ f.bytes) : takeFrame f s = s := by
  by_cases hp : s.phase = .tx
  · exact if_pos ⟨hp, h⟩
  · exact takeFrame_of_ne hp f

/-- Settles O37: each of the six instructions runs as the UART taking its frame, which here takes nothing. -/
theorem frameNotPresentedIsNotSent : Obligations.FrameNotPresentedIsNotSent := by
  intro i f s hf h
  rw [exec_of_sentFrame hf]
  exact congrArg Host.Outcome.next (h.elim (takeFrame_of_ne · f) takeFrame_not_presented)

end Sys2Proof.Machine
end

section
/-! SUPPORT. What each byte of a reply does in the phase that waits for it, as the whole next state (O43 to O46). -/

namespace Sys2Proof.Machine

/-! ### The bytes a check rejects (R192, R194, R195, R199) -/

theorem rxM2Byte_bad {b : Byte} {s : State} (h : ¬ (s.m1 = Config.marker ∧ b = Config.marker)) :
    rxM2Byte b s = complete .framing .rxM2 s := if_neg h

theorem rxAddrByte_bad {b : Byte} {s : State} (h : b ≠ s.txAddr) :
    rxAddrByte b s = complete .addrMismatch .rxAddr { s with rxAddr := b, acc := b } := if_pos h

theorem rxLenByte_bad {b : Byte} (h : b.toNat < 2) (s : State) :
    rxLenByte b s = complete .length .rxLen { s with rxLen := b, acc := s.acc + b } := if_pos h

theorem rxCsumByte_bad {b : Byte} {s : State} (h : b ≠ ~~~ s.acc) :
    rxCsumByte b s = complete .checksum .rxCsum { s with rxCsum := b, rxCalc := ~~~ s.acc } := if_pos h

/-! ### The error byte (R196) -/

theorem rxErrByte_empty {s : State} (h : s.rxLen = 2) (b : Byte) :
    rxErrByte b s = { s with rxErr := b, acc := s.acc + b, tmr := 0, phase := .rxCsum } := by
  rw [rxErrByte, if_pos h]

theorem rxErrByte_payload {s : State} (h : s.rxLen ≠ 2) (b : Byte) :
    rxErrByte b s = { s with rxErr := b, acc := s.acc + b, tmr := 0, phase := .rxPay } := by
  rw [rxErrByte, if_neg h]

/-! ### The statements, phase by phase -/

/-- Settles O45: under the bounds of R59 (6) the index is at most 252, so the byte is stored and the count does not
wrap. -/
theorem payloadByteIsStored : Obligations.PayloadByteIsStored := by
  intro s b hp hlen hcnt
  have hbyte := s.rxLen.isLt
  have hroom : s.rxCnt.toNat < 253 := by omega
  have hnext : (s.rxCnt + 1).toNat = s.rxCnt.toNat + 1 := by bv_omega
  have hlast : (s.rxCnt + 1).toNat + 2 = s.rxLen.toNat ↔ s.rxCnt.toNat + 1 = s.rxLen.toNat - 2 := by omega
  refine ⟨Memory.write s.mem (rxBufAddr s.rxCnt.toNat) b, ?_, hnext, Memory.byteAt_write_same _ _ _,
    fun a ha => Memory.byteAt_write_other _ ha _⟩
  rw [onRxByte_rxPay hp, rxPayByte_stored hroom]
  simp only [hlast]

/-- Settles O43: the first byte by the phase alone, the second by whether both are the marker. -/
theorem markerBytes : Obligations.MarkerBytes := by
  refine fun s b => ⟨fun hp => ?_, fun hp hm1 hb => ?_, fun hp hbad => ?_⟩
  · rw [onRxByte_rxM1 hp, rxM1Byte]
  · subst hb
    rw [onRxByte_rxM2 hp]
    exact rxM2Byte_good hm1
  · rw [onRxByte_rxM2 hp, rxM2Byte_bad hbad]
    rfl

/-- Settles O44: each header byte by the outcome of its check; a failed check is a completion with its fault. -/
theorem headerBytes : Obligations.HeaderBytes := by
  refine fun s b => ⟨fun hp ha => ?_, fun hp ha => ?_, fun hp hl => ?_, fun hp hl => ?_, fun hp hl => ?_,
    fun hp hl => ?_⟩
  · rw [onRxByte_rxAddr hp, rxAddrByte_good ha.symm]
  · rw [onRxByte_rxAddr hp, rxAddrByte_bad ha]
    rfl
  · rw [onRxByte_rxLen hp, rxLenByte_good hl]
  · rw [onRxByte_rxLen hp, rxLenByte_bad hl]
    rfl
  · rw [onRxByte_rxErr hp, rxErrByte_empty hl]
  · rw [onRxByte_rxErr hp, rxErrByte_payload hl]

/-- Settles O46: a byte other than the computed checksum is a completion with CHECKSUM, the computed one a success. -/
theorem checksumByteDecides : Obligations.ChecksumByteDecides := by
  refine fun s b hp => ⟨fun hbad => ?_, fun hgood => ?_⟩
  · rw [onRxByte_rxCsum hp, rxCsumByte_bad hbad]
    rfl
  · rw [onRxByte_rxCsum hp, rxCsumByte_good hgood, ← hgood]
    rfl

end Sys2Proof.Machine
end

section
/-! SUPPORT. The flags of an error byte and its bits (O56). -/

namespace Sys2Proof.Machine

/-! ### The bit assignment (R230) -/

/-- The names stand in bit order, one for each bit of a byte. -/
theorem map_bit_errorFlagNames : errorFlagNames.map ErrorFlag.bit = List.range 8 := rfl

theorem nodup_errorFlagNames : errorFlagNames.Nodup :=
  List.Nodup.of_map ErrorFlag.bit (map_bit_errorFlagNames ▸ List.nodup_range)

theorem exists_errorFlag_of_bit {i : Nat} (h : i < 8) : ∃ f : ErrorFlag, f.bit = i := by
  have hi : i ∈ errorFlagNames.map ErrorFlag.bit := map_bit_errorFlagNames ▸ List.mem_range.mpr h
  obtain ⟨f, -, hf⟩ := List.mem_map.mp hi
  exact ⟨f, hf⟩

@[simp] theorem mem_errorFlagNames (f : ErrorFlag) : f ∈ errorFlagNames := by cases f <;> decide

/-! ### The parser (R231) -/

theorem nodup_decodeErrorFlags (e : Byte) : (decodeErrorFlags e).Nodup := nodup_errorFlagNames.filter _

@[simp] theorem mem_decodeErrorFlags (f : ErrorFlag) (e : Byte) :
    f ∈ decodeErrorFlags e ↔ e.getLsbD f.bit = true := by
  simp [decodeErrorFlags]

/-- Every bit of the byte has its flag, so the flags determine the byte. -/
theorem decodeErrorFlags_injective : Function.Injective decodeErrorFlags := by
  intro e e' h
  apply BitVec.eq_of_getLsbD_eq
  intro i hi
  obtain ⟨f, rfl⟩ := exists_errorFlag_of_bit hi
  rw [Bool.eq_iff_iff, ← mem_decodeErrorFlags, ← mem_decodeErrorFlags, h]

/-- Settles O56: membership of each flag is its bit, the names do not repeat, and every bit has a flag. -/
theorem errorFlagsAreTheSetBits : Obligations.ErrorFlagsAreTheSetBits := by
  refine ⟨fun e => ⟨nodup_decodeErrorFlags e, ?_⟩, fun _ _ h => decodeErrorFlags_injective h, by decide, by decide⟩
  simp only [mem_decodeErrorFlags, ErrorFlag.bit, and_self]

end Sys2Proof.Machine
end

section
/-! SUPPORT. The bus events in the phases that heed them and those that do not (O39, O40, O42, O53). -/

namespace Sys2Proof.Machine

/-! ### `TxIdle` and `Tick` (R253, R256, R258, R260) -/

theorem onTxIdle_aborted {s : State} (hp : s.phase = .turn) (ha : s.abrt = true) :
    onTxIdle s = complete .aborted s.faultPhase s := by
  rw [onTxIdle, if_pos hp, if_pos ha]

/-- Settles O39: in TURN ABRT and then SUPPRESS decide; the two endings are completions. -/
theorem txIdleTurnsAround : Obligations.TxIdleTurnsAround :=
  fun _ => ⟨onTxIdle_aborted, onTxIdle_suppressed, onTxIdle_receive, onTxIdle_of_ne⟩

theorem onTick_counts {s : State} (hp : s.phase.isRx = true) (ht : s.tmr + 1 < s.timeout) :
    onTick s = { s with tmr := s.tmr + 1 } := by
  rw [onTick, if_pos hp, if_neg (BitVec.not_le.2 ht)]

theorem onTick_times_out {s : State} (hp : s.phase.isRx = true) (ht : s.timeout ≤ s.tmr + 1) :
    onTick s = complete .timeout s.phase { s with tmr := s.tmr + 1 } := by
  rw [onTick, if_pos hp, if_pos ht]

/-- Settles O53: in an RX phase the incremented count decides; a timeout is a completion. -/
theorem tickCountsInRx : Obligations.TickCountsInRx := fun _ => ⟨onTick_counts, onTick_times_out, onTick_of_not_rx⟩

/-! ### Which phases heed a byte, and which drive the bus (R251, R254) -/

/-- Settles O42: none of the three is an RX phase. -/
theorem bytesOutsideRxAreDropped : Obligations.BytesOutsideRxAreDropped := by
  intro s hp
  have hrx : s.phase.isRx = false := by rcases hp with hp | hp | hp <;> rw [hp] <;> rfl
  exact ⟨onRxByte_of_not_rx hrx, fun f => congrArg Host.Outcome.next (deliverBytes_of_not_rx hrx f.bytes)⟩

/-- In an RX phase a byte leads to another phase or, in RX_PAY, is counted. -/
theorem onRxByte_phase_or_rxCnt_ne {s : State} (h : s.phase.isRx = true) (b : Byte) :
    (onRxByte b s).phase ≠ s.phase ∨ (onRxByte b s).rxCnt ≠ s.rxCnt := by
  cases hp : s.phase with
  | idle => rw [hp] at h; cases h
  | tx => rw [hp] at h; cases h
  | turn => rw [hp] at h; cases h
  | rxM1 => rw [onRxByte_rxM1 hp]; exact .inl (by decide : Phase.rxM2 ≠ .rxM1)
  | rxM2 => rw [onRxByte_rxM2 hp, rxM2Byte]; split <;> exact .inl nofun
  | rxAddr => rw [onRxByte_rxAddr hp, rxAddrByte]; split <;> exact .inl nofun
  | rxLen => rw [onRxByte_rxLen hp, rxLenByte]; split <;> exact .inl nofun
  | rxErr => rw [onRxByte_rxErr hp, rxErrByte]; dsimp only; split <;> exact .inl nofun
  | rxPay => rw [onRxByte_rxPay hp, rxPayByte]; exact .inr (by dsimp only; bv_omega)
  | rxCsum => rw [onRxByte_rxCsum hp, rxCsumByte]; split <;> exact .inl nofun

theorem onRxByte_ne_self_iff (b : Byte) (s : State) : onRxByte b s ≠ s ↔ s.phase.isRx = true := by
  constructor
  · intro h
    by_contra hrx
    exact h (onRxByte_of_not_rx (Bool.eq_false_iff.2 hrx) b)
  · intro h he
    rcases onRxByte_phase_or_rxCnt_ne h b with hne | hne
    · exact hne (congrArg State.phase he)
    · exact hne (congrArg State.rxCnt he)

theorem dir_eq_true_iff (s : State) : s.dir = true ↔ s.phase = .tx ∨ s.phase = .turn := decide_eq_true_iff

/-- No phase both drives the bus and receives (R21). -/
theorem Phase.isRx_of_isTx {p : Phase} (h : p.isTx = true) : p.isRx = false := by
  obtain rfl | rfl := of_decide_eq_true h <;> rfl

/-- Settles O40: DIR is the TX phases, an effective byte the RX phases, and no phase is both. -/
theorem neverDrivesAndListens : Obligations.NeverDrivesAndListens := by
  refine fun s => ⟨dir_eq_true_iff s, fun b => onRxByte_ne_self_iff b s, ?_⟩
  rintro ⟨hdir, b, hb⟩
  exact Bool.eq_false_iff.1 (Phase.isRx_of_isTx hdir) ((onRxByte_ne_self_iff b s).1 hb)

end Sys2Proof.Machine
end

section
/-! SUPPORT. A cycle as its host access and what follows: the order of its events (O8), the wire's record (O57), and the
hold of the bus in TURN (O33). -/

namespace Sys2Proof.Machine

/-! ### The events of one cycle (R262) -/

/-- A cycle of reset is the reset, and the byte the UART takes. -/
theorem step_of_rst {s : State} {c : Cycle} {rest : List Input} (hi : s.inputs = .cycle c :: rest)
    (hr : c.rst = true) : step s = .next (uartTakes c (takeInput rest s) (resetCycle c (takeInput rest s))) := by
  simp only [step, hi, runInput, runCycle, hr, if_true, thenEvents]

/-- What a cycle's host access leaves: `t` after a transaction word, or after no access. -/
def HostAccess (c : Cycle) (s t : State) : Prop :=
  c.host = none ∧ t = s ∨ ∃ w i, c.host = some w ∧ decode (.host w) = .ok i ∧ exec i s = .next t

/-- In a cycle without reset the bus events follow the host access, and the UART takes what it acknowledges. -/
theorem step_of_hostAccess {s t : State} {c : Cycle} {rest : List Input} (hi : s.inputs = .cycle c :: rest)
    (hr : c.rst = false) (ht : HostAccess c (takeInput rest s) t) :
    step s = .next (uartTakes c (takeInput rest s) (busEvents c t)) := by
  have hrst : ¬ c.rst = true := Bool.eq_false_iff.1 hr
  obtain ⟨hw, rfl⟩ | ⟨w, i, hw, hd, hx⟩ := ht
  · simp only [step, hi, runInput, runCycle, if_neg hrst, hw, thenEvents]
  · simp only [step, hi, runInput, runCycle, if_neg hrst, hw, runCode, hd, hx, thenEvents]

/-- A host access is none, a host write or a host read. -/
theorem HostAccess.cases {c : Cycle} {s t : State} (h : HostAccess c s t) :
    t = s ∨ (∃ a d, c.host = some (encodeHost true a d) ∧ t = hostWrite a d s) ∨ ∃ b, t = { s with hRData := b } := by
  obtain ⟨-, rfl⟩ | ⟨w, i, hw, hd, hx⟩ := h
  · exact .inl rfl
  · rcases exec_decodeHost (s := s) hd with ⟨he, hwr⟩ | hrd
    · rw [hwr] at hx
      cases hx
      exact .inr (.inl ⟨_, _, he ▸ hw, rfl⟩)
    · rw [hrd] at hx
      cases hx
      exact .inr (.inr ⟨_, rfl⟩)

/-- A cycle whose host word, if any, is a transaction has a host access (R110). -/
theorem hostAccess_of_spells {c : Cycle} (h : (Input.cycle c).spells = true) (hr : c.rst = false) (s : State) :
    ∃ t, HostAccess c s t := by
  cases hw : c.host with
  | none => exact ⟨s, .inl ⟨hw, rfl⟩⟩
  | some w =>
    have hbit : w.getLsbD 18 = false := by simpa [Input.spells, hr, hw] using h
    cases hd : decode (.host w) with
    | ok i =>
      obtain ⟨t, hx⟩ := exec_next i s
      exact ⟨t, .inr ⟨w, i, hw, hd, hx⟩⟩
    | error e =>
      have hok := decode_host_isOk hbit
      rw [hd] at hok
      cases hok

theorem HostAccess.sent {c : Cycle} {s t : State} (h : HostAccess c s t) : t.sent = s.sent := by
  obtain rfl | ⟨a, d, -, rfl⟩ | ⟨b, rfl⟩ := h.cases
  · rfl
  · exact hostWrite_sent a d s
  · rfl

/-- A host access that stays in TX, as all but an ABORT do, leaves the byte presented (R138). -/
theorem HostAccess.txData {c : Cycle} {s t : State} (h : HostAccess c s t) (hs : s.phase = .tx) (ht : t.phase = .tx) :
    t.txData = s.txData := by
  obtain rfl | ⟨a, d, -, rfl⟩ | ⟨b, rfl⟩ := h.cases
  · rfl
  · obtain hw | hw | hw := hostWrite_of_tx hs a d
    · rw [hw]
    · rw [hw]; rfl
    · rw [hw, abortCommand_of_tx hs] at ht
      cases ht
  · rfl

/-- Where the host access does not take the block out of TX, `TxAccept` has recorded what the UART takes. -/
theorem HostAccess.uartTakes_eq {c : Cycle} {s t : State} (h : HostAccess c s t) (hp : s.phase = .tx → t.phase = .tx) :
    uartTakes c s (busEvents c t) = busEvents c t := by
  by_cases hs : s.phase = .tx
  · exact uartTakes_busEvents c hp h.sent (h.txData hs (hp hs))
  · exact Machine.uartTakes_eq fun _ hv => absurd (of_decide_eq_true hv) hs

/-- Settles O8: the bus events are the chain t1 to t4, to which the UART's taking adds at most the wire's record. -/
theorem cycleEventOrder : Obligations.CycleEventOrder := by
  intro s t0 c rest hi
  refine ⟨fun hr ht => ?_, fun hr => ?_⟩
  · have access : HostAccess c (takeInput rest s) t0 := ht
    refine ⟨ifReceived c.rx t0, _, _, busEvents c t0, fun b hb => by rw [hb]; rfl, fun hn => by rw [hn]; rfl, rfl, rfl,
      rfl, (uartTakes c (takeInput rest s) (busEvents c t0)).sent, ?_, fun hp => ?_⟩
    · rw [← uartTakes_with]
      exact step_of_hostAccess hi hr access
    · rw [access.uartTakes_eq hp]
  · exact ⟨_, _, (step_of_rst hi hr).trans (congrArg Host.Outcome.next (uartTakes_with _ _ _))⟩

/-! ### The wire's record (R264) -/

/-- A host write enters TX only as a START in IDLE (R132). -/
theorem hostWrite_enters_tx {a : HostAddr} {d : Byte} {s : State} (hs : s.phase ≠ .tx)
    (ht : (hostWrite a d s).phase = .tx) : s.phase = .idle ∧ a = 0 ∧ d = 0x01 := by
  have abort_ne : (abortCommand s).phase ≠ .tx := by
    unfold abortCommand
    split
    · exact hs
    · nofun
    · split <;> exact hs
    · nofun
  obtain hw | hw | hw | ⟨hp, ⟨ha, hd, -⟩ | ⟨-, -, hw⟩ | hw⟩ := hostWrite_cases a d s
  · rw [hw] at ht; exact absurd ht hs
  · rw [hw] at ht; exact absurd ht hs
  · rw [hw] at ht; exact absurd ht abort_ne
  · exact ⟨hp, ha, hd⟩
  · rw [hw] at ht; exact absurd ht hs
  · exact absurd (hw.phase.symm.trans ht) hs

/-- A host access enters TX only as a START in IDLE. -/
theorem HostAccess.enters_tx {c : Cycle} {s t : State} (h : HostAccess c s t) (hs : s.phase ≠ .tx)
    (ht : t.phase = .tx) : c.host = some 0x80001 ∧ s.phase = .idle := by
  obtain rfl | ⟨a, d, hc, rfl⟩ | ⟨b, rfl⟩ := h.cases
  · exact absurd ht hs
  · obtain ⟨hp, rfl, rfl⟩ := hostWrite_enters_tx hs ht
    exact ⟨hc, hp⟩
  · exact absurd ht hs

/-- Without a `TxAccept` no bus event adds to the wire's record. -/
theorem busEvents_sent_of_no_txAck {c : Cycle} (h : c.txAck = false) (s : State) : (busEvents c s).sent = s.sent := by
  by_cases hp : s.phase = .tx
  · rw [busEvents_sent_of_tx c hp, h]; rfl
  · exact busEvents_sent_of_ne c hp

theorem uartTakes_sent_of_taken {c : Cycle} {s : State} (ha : c.txAck = true) (hv : s.txValid = true) (t : State) :
    (uartTakes c s t).sent = s.sent ++ [s.txData] := by
  rw [uartTakes_sent, ha, hv]; rfl

theorem uartTakes_sent_of_no_txAck {c : Cycle} (h : c.txAck = false) (s t : State) :
    (uartTakes c s t).sent = t.sent := by
  rw [uartTakes_sent, h]; rfl

theorem uartTakes_sent_of_not_txValid {s : State} (h : s.txValid = false) (c : Cycle) (t : State) :
    (uartTakes c s t).sent = t.sent := by
  rw [uartTakes_sent, h, Bool.and_false]; rfl

/-- TX_VALID = 0 is any phase but TX (R56). -/
theorem phase_ne_tx_of_not_txValid {s : State} (h : s.txValid = false) : s.phase ≠ .tx := of_decide_eq_false h

/-- Settles O57: the UART's taking records what it acknowledges, and the rest of a cycle adds to the record only by a
`TxAccept` in TX, which a cycle with TX_VALID = 0 enters only by a START. -/
theorem uartTakesWhatItAcknowledges : Obligations.UartTakesWhatItAcknowledges := by
  intro s c rest hi hspells
  cases hr : c.rst with
  | true =>
    refine ⟨_, step_of_rst hi hr, fun ha hv => uartTakes_sent_of_taken ha hv _, fun ha => ?_, fun hv => .inl ?_⟩
    · exact uartTakes_sent_of_no_txAck ha _ _
    · exact uartTakes_sent_of_not_txValid hv c _
  | false =>
    obtain ⟨t, access⟩ := hostAccess_of_spells hspells hr (takeInput rest s)
    have quiet (ha : c.txAck = false) : (uartTakes c (takeInput rest s) (busEvents c t)).sent = s.sent := by
      rw [uartTakes_sent_of_no_txAck ha, busEvents_sent_of_no_txAck ha]
      exact access.sent
    refine ⟨_, step_of_hostAccess hi hr access, fun ha hv => uartTakes_sent_of_taken ha hv _, quiet, fun hv => ?_⟩
    have hs : s.phase ≠ .tx := phase_ne_tx_of_not_txValid hv
    by_cases hp : t.phase = .tx
    · obtain ⟨hc, hidle⟩ := access.enters_tx hs hp
      cases ha : c.txAck with
      | true => exact .inr ⟨rfl, rfl, hc, hidle⟩
      | false => exact .inl (quiet ha)
    · refine .inl ?_
      rw [uartTakes_sent_of_not_txValid (s := takeInput rest s) hv, busEvents_sent_of_ne c hp]
      exact access.sent

/-! ### The hold of the bus in TURN (R252) -/

/-- Of the bus events only `TxIdle` has an effect in TURN (R166, R254, R258). -/
theorem busEvents_of_turn {c : Cycle} {s : State} (hp : s.phase = .turn) (hi : c.txIdle = false) :
    busEvents c s = s := by
  have hrx : s.phase.isRx = false := by rw [hp]; rfl
  have hbyte : ifReceived c.rx s = s := by
    cases c.rx with
    | none => rfl
    | some b => exact onRxByte_of_not_rx hrx b
  have haccept : onTxAccept s = s := onTxAccept_of_ne (by rw [hp]; decide)
  simp only [busEvents, hbyte, hi, ifLine, haccept, onTick_of_not_rx hrx, ite_self, Bool.false_eq_true, if_false]

/-- The rest of a cycle without `TxIdle` stays in TURN. -/
theorem restOfCycle_phase_of_turn {c : Cycle} {t : State} (hp : t.phase = .turn) (hi : c.txIdle = false) (s : State) :
    (uartTakes c s (busEvents c t)).phase = .turn := by
  rw [uartTakes_phase, busEvents_of_turn hp hi, hp]

/-- In TURN a host write does nothing, is rejected, or is an ABORT, which stays there (R134, R138). -/
theorem hostWrite_phase_of_turn {s : State} (hp : s.phase = .turn) (a : HostAddr) (d : Byte) :
    (hostWrite a d s).phase = .turn := by
  obtain hw | hw | hw | ⟨hidle, -⟩ := hostWrite_cases a d s
  · rw [hw, hp]
  · rw [hw, reject_phase, hp]
  · rw [hw, abortCommand_of_turn hp]
    split <;> exact hp
  · rw [hp] at hidle; cases hidle

/-- A step without `TxIdle` and without reset stays in TURN. -/
theorem step_phase_of_turn {s t : State} (hp : s.phase = .turn) (h : step s = .next t)
    (hq : ∀ c rest, s.inputs = .cycle c :: rest → c.rst = false ∧ c.txIdle = false) : t.phase = .turn := by
  have taken (rest : List Input) : (takeInput rest s).phase = .turn := hp
  obtain ⟨-, rfl⟩ | ⟨c, rest, hi, hr, -⟩ | ⟨c, rest, hi, -, -, rfl⟩ | ⟨c, rest, w, hi, -, -, -, rfl⟩ |
    ⟨c, rest, w, hi, -, -, rfl⟩ | ⟨bytes, rest, f, -, -, rfl⟩ | ⟨bytes, rest, f, -, -, rfl⟩ := step_next_cases h
  · exact hp
  · exact absurd ((hq c rest hi).1.symm.trans hr) Bool.false_ne_true
  · exact restOfCycle_phase_of_turn (taken rest) (hq c rest hi).2 _
  · exact restOfCycle_phase_of_turn (hostWrite_phase_of_turn (taken rest) _ _) (hq c rest hi).2 _
  · refine restOfCycle_phase_of_turn ?_ (hq c rest hi).2 _
    exact taken rest
  · rw [takeFrame_of_ne (by rw [taken]; decide), taken]
  · rw [deliverBytes_of_not_rx (by rw [taken]; rfl), taken]

/-- Settles O33: TURN is a TX phase, and a step that leaves it is no step without `TxIdle` and reset. -/
theorem turnEndsOnlyOnTxIdleOrReset : Obligations.TurnEndsOnlyOnTxIdleOrReset := by
  refine fun s hp => ⟨(dir_eq_true_iff s).2 (.inr hp), fun t h ht => ?_⟩
  by_contra hno
  refine ht (step_phase_of_turn hp h fun c rest hi => ⟨?_, ?_⟩)
  · exact Bool.eq_false_iff.2 fun hr => hno ⟨c, rest, hi, .inl hr⟩
  · exact Bool.eq_false_iff.2 fun hx => hno ⟨c, rest, hi, .inr hx⟩

end Sys2Proof.Machine
end

section
/-! SUPPORT. What a delivered status frame leaves unchanged (O48). -/

namespace Sys2Proof.Machine

/-! ### The registers -/

theorem onRxByte_idx (b : Byte) (s : State) : (onRxByte b s).idx = s.idx := by
  unfold onRxByte
  split
  · rfl
  · rfl
  · rfl
  · rfl
  · unfold rxM2Byte; split <;> rfl
  · unfold rxAddrByte; split <;> rfl
  · unfold rxLenByte; split <;> rfl
  · rfl
  · simp [rxPayByte]
  · unfold rxCsumByte; split <;> rfl

theorem deliverBytes_idx (bs : List Byte) (s : State) : (deliverBytes bs s).idx = s.idx := by
  induction bs generalizing s with
  | nil => rfl
  | cons b bs ih => rw [deliverBytes_cons, ih, onRxByte_idx]

theorem deliverBytes_sent (bs : List Byte) (s : State) : (deliverBytes bs s).sent = s.sent := by
  induction bs generalizing s with
  | nil => rfl
  | cons b bs ih => rw [deliverBytes_cons, ih, onRxByte_sent]

theorem deliverBytes_sameButReception (bs : List Byte) (s : State) : SameButReception s (deliverBytes bs s) :=
  have frame := deliverBytes_frame bs s
  ⟨frame.cfg, frame.txAddr, frame.txOpc, frame.txLen, frame.timeoutLo, frame.timeoutHi, frame.rej, frame.txCsum,
    deliverBytes_idx bs s, frame.hRData, deliverBytes_sent bs s, frame.inputs⟩

/-! ### The bytes outside RX_BUF (R41) -/

/-- Only a payload byte is stored and counted (R198). -/
theorem onRxByte_mem_rxCnt_of_ne {s : State} (h : s.phase ≠ .rxPay) (b : Byte) :
    (onRxByte b s).mem = s.mem ∧ (onRxByte b s).rxCnt = s.rxCnt := by
  unfold onRxByte
  split
  · exact ⟨rfl, rfl⟩
  · exact ⟨rfl, rfl⟩
  · exact ⟨rfl, rfl⟩
  · exact ⟨rfl, rfl⟩
  · unfold rxM2Byte; split <;> exact ⟨rfl, rfl⟩
  · unfold rxAddrByte; split <;> exact ⟨rfl, rfl⟩
  · unfold rxLenByte; split <;> exact ⟨rfl, rfl⟩
  · exact ⟨rfl, rfl⟩
  · next hp => exact absurd hp h
  · unfold rxCsumByte; split <;> exact ⟨rfl, rfl⟩

/-- A write to RX_BUF, at whatever index, leaves the bytes outside its addresses alone. -/
theorem setRxBuf_byteAt_outside {a : Nat} (ha : ¬ (0x200 ≤ a ∧ a ≤ 0x2FC)) (i : Nat) (v : Byte) (s : State) :
    Memory.byteAt (setRxBuf i v s).mem a = Memory.byteAt s.mem a := by
  by_cases hi : i < 253
  · rw [setRxBuf_byteAt hi, if_neg (by unfold rxBufAddr; omega)]
  · have hset : setRxBuf i v s = s := if_neg hi
    rw [hset]

theorem onRxByte_byteAt_outside {a : Nat} (ha : ¬ (0x200 ≤ a ∧ a ≤ 0x2FC)) (b : Byte) (s : State) :
    Memory.byteAt (onRxByte b s).mem a = Memory.byteAt s.mem a := by
  by_cases hp : s.phase = .rxPay
  · rw [onRxByte_rxPay hp]
    exact setRxBuf_byteAt_outside ha _ b s
  · rw [(onRxByte_mem_rxCnt_of_ne hp b).1]

theorem deliverBytes_byteAt_outside {a : Nat} (ha : ¬ (0x200 ≤ a ∧ a ≤ 0x2FC)) (bs : List Byte) (s : State) :
    Memory.byteAt (deliverBytes bs s).mem a = Memory.byteAt s.mem a := by
  induction bs generalizing s with
  | nil => rfl
  | cons b bs ih => rw [deliverBytes_cons, ih, onRxByte_byteAt_outside ha]

/-! ### The RX_BUF bytes not counted in (R48, R198) -/

/-- The part of the invariant that keeps RX_CNT from wrapping: nothing is counted before the payload, and in RX_PAY a
counted byte is still to come (R59 (6)). -/
def State.PayloadFits (s : State) : Prop :=
  match s.phase with
  | .rxM1 | .rxM2 | .rxAddr | .rxLen => s.rxCnt = 0
  | .rxErr => s.rxCnt = 0 ∧ 2 ≤ s.rxLen.toNat
  | .rxPay => s.rxCnt.toNat + 2 < s.rxLen.toNat
  | .idle | .tx | .turn | .rxCsum => True

theorem Invariant.payloadFits {s : State} (h : Invariant s) : s.PayloadFits := by
  have hcnt := h.cnt_zero
  unfold State.PayloadFits
  cases hp : s.phase <;> rw [hp] at hcnt
  case rxM1 | rxM2 | rxAddr | rxLen => exact hcnt nofun (by decide)
  case rxErr => exact ⟨hcnt nofun (by decide), h.csum_length (.inl hp)⟩
  case rxPay =>
    obtain ⟨hlen, hroom⟩ := h.pay_count hp
    dsimp only
    omega
  all_goals trivial

/-- A payload byte that fits is counted without a wrap. -/
theorem State.PayloadFits.rxCnt_succ {s : State} (h : s.PayloadFits) (hp : s.phase = .rxPay) :
    s.rxCnt.toNat < 253 ∧ (s.rxCnt + 1).toNat = s.rxCnt.toNat + 1 := by
  rw [State.PayloadFits, hp] at h
  have := s.rxLen.isLt
  dsimp only at h
  exact ⟨by omega, by bv_omega⟩

theorem payloadFits_of_idle {s : State} (h : s.phase = .idle) : s.PayloadFits := by
  rw [State.PayloadFits, h]
  trivial

theorem rxErrByte_payloadFits {s : State} (h : s.PayloadFits) (hp : s.phase = .rxErr) (b : Byte) :
    (rxErrByte b s).PayloadFits := by
  rw [State.PayloadFits, hp] at h
  obtain ⟨hcnt, hlen⟩ := h
  by_cases h2 : s.rxLen = 2
  · rw [rxErrByte_empty h2]
    trivial
  · rw [rxErrByte_payload h2]
    show s.rxCnt.toNat + 2 < s.rxLen.toNat
    bv_omega

theorem rxPayByte_payloadFits {s : State} (h : s.PayloadFits) (hp : s.phase = .rxPay) (b : Byte) :
    (rxPayByte b s).PayloadFits := by
  obtain ⟨hroom, hnext⟩ := h.rxCnt_succ hp
  rw [State.PayloadFits, hp] at h
  dsimp only at h
  rw [rxPayByte_stored hroom]
  by_cases hlast : (s.rxCnt + 1).toNat + 2 = s.rxLen.toNat
  · rw [if_pos hlast]
    trivial
  · rw [if_neg hlast]
    show (s.rxCnt + 1).toNat + 2 < s.rxLen.toNat
    omega

theorem onRxByte_payloadFits {s : State} (h : s.PayloadFits) (b : Byte) : (onRxByte b s).PayloadFits := by
  have hcnt := h
  unfold State.PayloadFits at hcnt
  cases hp : s.phase <;> rw [hp] at hcnt
  case idle | tx | turn => rwa [onRxByte_of_not_rx (by rw [hp]; rfl)]
  case rxM1 => rw [onRxByte_rxM1 hp]; exact hcnt
  case rxM2 => rw [onRxByte_rxM2 hp, rxM2Byte]; split <;> [exact hcnt; exact payloadFits_of_idle rfl]
  case rxAddr => rw [onRxByte_rxAddr hp, rxAddrByte]; split <;> [exact payloadFits_of_idle rfl; exact hcnt]
  case rxLen =>
    rw [onRxByte_rxLen hp, rxLenByte]
    split
    · exact payloadFits_of_idle rfl
    · next hlen => exact ⟨hcnt, Nat.not_lt.1 hlen⟩
  case rxErr => rw [onRxByte_rxErr hp]; exact rxErrByte_payloadFits h hp b
  case rxPay => rw [onRxByte_rxPay hp]; exact rxPayByte_payloadFits h hp b
  case rxCsum => rw [onRxByte_rxCsum hp, rxCsumByte]; split <;> exact payloadFits_of_idle rfl

/-- From `s` to `t` the count of received bytes does not fall, and RX_BUF changes only where it has grown. -/
structure RxBufGrows (s t : State) : Prop where
  count : s.rxCnt.toNat ≤ t.rxCnt.toNat
  kept  : ∀ i, i < s.rxCnt.toNat ∨ t.rxCnt.toNat ≤ i → t.rxBuf i = s.rxBuf i

theorem RxBufGrows.refl (s : State) : RxBufGrows s s := ⟨Nat.le_refl _, fun _ _ => rfl⟩

theorem RxBufGrows.trans {s t u : State} (h : RxBufGrows s t) (k : RxBufGrows t u) : RxBufGrows s u where
  count := h.count.trans k.count
  kept := fun i hi => (k.kept i (hi.imp_left fun hlt => hlt.trans_le h.count)).trans
    (h.kept i (hi.imp_right fun hle => k.count.trans hle))

/-- A payload byte that fits goes to the index RX_CNT, which the count then takes in (R198). -/
theorem rxPayByte_rxBufGrows {s : State} (h : s.PayloadFits) (hp : s.phase = .rxPay) (b : Byte) :
    RxBufGrows s (rxPayByte b s) := by
  obtain ⟨hroom, hnext⟩ := h.rxCnt_succ hp
  rw [rxPayByte_stored hroom]
  refine ⟨?_, fun i hi => Memory.byteAt_write_other _ ?_ b⟩
  · dsimp only
    omega
  · dsimp only at hi
    unfold rxBufAddr
    omega

theorem onRxByte_rxBufGrows {s : State} (h : s.PayloadFits) (b : Byte) : RxBufGrows s (onRxByte b s) := by
  by_cases hp : s.phase = .rxPay
  · rw [onRxByte_rxPay hp]
    exact rxPayByte_rxBufGrows h hp b
  · obtain ⟨hmem, hcnt⟩ := onRxByte_mem_rxCnt_of_ne hp b
    exact ⟨by rw [hcnt], fun i _ => by rw [State.rxBuf, hmem, State.rxBuf]⟩

theorem deliverBytes_rxBufGrows (bs : List Byte) {s : State} (h : s.PayloadFits) :
    RxBufGrows s (deliverBytes bs s) := by
  induction bs generalizing s with
  | nil => exact .refl s
  | cons b bs ih => exact (onRxByte_rxBufGrows h b).trans (ih (onRxByte_payloadFits h b))

/-- Settles O48, by induction on the frame's bytes: no byte touches a setting, only payload bytes touch RX_BUF, and
under the invariant each is counted. -/
theorem statusFrameFrame : Obligations.StatusFrameFrame :=
  fun f s => ⟨_, rfl, deliverBytes_sameButReception f.bytes s, fun _ ha => deliverBytes_byteAt_outside ha f.bytes s,
    fun hinv => (deliverBytes_rxBufGrows f.bytes hinv.payloadFits).kept⟩

end Sys2Proof.Machine
end

section
/-! SUPPORT. What a cycle of reset leaves (O10). -/

namespace Sys2Proof.Machine

theorem reads_of_hostRd {c : Cycle} {a : HostAddr} {d : Byte} (h : c.host = some (encodeHost false a d)) :
    c.reads = true := by
  rw [Cycle.reads, h, Option.map_some, decodeHost_encodeHost]
  rfl

/-- A read in a cycle of reset returns 0x00, whatever it reads (R320). -/
theorem resetCycle_hRData_of_reads {c : Cycle} (h : c.reads = true) (s : State) :
    (resetCycle c s).hRData = some 0x00 :=
  if_pos h

theorem resetCycle_timeout (c : Cycle) (s : State) : (resetCycle c s).timeout = Config.timeoutReset :=
  hiByte_append_loByte Config.timeoutReset

/-- STATUS is read from registers that a cycle of reset leaves as they are after power-up (R31, R320). -/
theorem hostRead_status_resetCycle (c : Cycle) (s : State) : hostRead (resetCycle c s) 0x008 = 0x00 :=
  calc hostRead (resetCycle c s) 0x008
    _ = hostRead State.reset 0x008 := rfl
    _ = 0x00 := statusBits.1

/-- Settles O10: the cycle ends as `resetCycle` says, but for the byte the UART takes, on which no register and no
output depends. -/
theorem resetSetsEveryValue : Obligations.ResetSetsEveryValue := by
  intro s c rest hi hr
  have hstep := (step_of_rst hi hr).trans (congrArg Host.Outcome.next (uartTakes_with _ _ _))
  refine ⟨_, hstep, rfl, fun a hread => ?_, rfl, rfl, rfl, rfl, ?_, ?_⟩
  · exact resetCycle_hRData_of_reads (reads_of_hostRd hread) (takeInput rest s)
  · exact hostRead_status_resetCycle c (takeInput rest s)
  · exact resetCycle_timeout c (takeInput rest s)

end Sys2Proof.Machine
end

section
/-! SUPPORT. The decoder and the encoder, each the other's inverse on canonical terms (O1, O2, O3), and the decoder
beside the opcode table (O4). -/

namespace Sys2Proof.Machine

/-! ### Frames and their bytes (R100, R101, R105) -/

/-- The bytes that decode to a frame are the bytes of a frame of the right length. -/
theorem decodeFrame_eq_ok_iff {bytes : List Byte} {f : Frame} :
    decodeFrame bytes = .ok f ↔ f.WF ∧ bytes = f.bytes := by
  refine ⟨fun h => ?_, fun ⟨hwf, hb⟩ => hb ▸ decodeFrame_bytes hwf⟩
  unfold decodeFrame at h
  split at h
  · next m1 m2 addr len code body =>
    split_ifs at h with hm hshort hlong
    obtain ⟨rfl, rfl⟩ := hm
    cases h
    exact ⟨Nat.le_antisymm (Nat.not_lt.1 hlong) (Nat.not_lt.1 hshort), rfl⟩
  · cases h

theorem decode_instrFrame_bytes {f : Frame} (h : f.WF) : decode (.instrFrame f.bytes) = .ok (instrOfFrame f) := by
  rw [decode, decodeFrame_bytes h]
  rfl

theorem decode_statusFrame_bytes {f : Frame} (h : f.WF) : decode (.statusFrame f.bytes) = .ok (.statusFrame f) := by
  rw [decode, decodeFrame_bytes h]
  rfl

/-- An opcode without a row of its own makes an INSTR_FRAME (R116 (2)). -/
theorem instrOfFrame_of_not_named {f : Frame} (h : f.code ∉ Config.namedOpcodes) : instrOfFrame f = .instrFrame f := by
  simp only [Config.namedOpcodes, List.mem_cons, List.not_mem_nil, or_false, not_or] at h
  obtain ⟨hping, hread, hwrite, hreset, hsync⟩ := h
  rw [instrOfFrame, if_neg hping, if_neg hread, if_neg hwrite, if_neg hreset, if_neg hsync]

/-- A frame of the right length makes a canonical instruction, coded by the frame's bytes. -/
theorem instrOfFrame_canonical {f : Frame} (h : f.WF) :
    (instrOfFrame f).wf = true ∧ encode (instrOfFrame f) = .instrFrame f.bytes := by
  by_cases hn : f.code ∈ Config.namedOpcodes
  · obtain ⟨addr, len, code, body⟩ := f
    have hwf : ∀ c, Frame.WF ⟨addr, len, c, body⟩ := fun _ => h
    simp only [Config.namedOpcodes, List.mem_cons, List.not_mem_nil, or_false] at hn
    obtain rfl | rfl | rfl | rfl | rfl := hn
    all_goals exact ⟨decide_eq_true (hwf _), rfl⟩
  · rw [instrOfFrame_of_not_named hn]
    exact ⟨decide_eq_true ⟨h, hn⟩, rfl⟩

/-! ### Decode after encode (R110, R111, R116) -/

/-- Settles O2, constructor by constructor: a host word decodes by its fields, a frame by its length and opcode. -/
theorem decodeEncodeRoundTrip : Obligations.DecodeEncodeRoundTrip := by
  intro i h
  cases i with
  | nop => exact decode_command 0x00
  | start => exact decode_command 0x01
  | abort => exact decode_command 0x02
  | clear => exact decode_command 0x03
  | cmdRsvd d => exact (decode_command d).trans (congrArg Except.ok (decodeCommand_of_ge (of_decide_eq_true h)))
  | hostWr a d => exact decode_hostWr (of_decide_eq_true h) d
  | hostRd a => exact decode_hostRd a 0x00
  | instrFrame f =>
    obtain ⟨hwf, hnamed⟩ := of_decide_eq_true h
    exact (decode_instrFrame_bytes hwf).trans (congrArg Except.ok (instrOfFrame_of_not_named hnamed))
  | statusFrame f => exact decode_statusFrame_bytes (of_decide_eq_true h)
  | ping addr len body => exact decode_instrFrame_bytes (of_decide_eq_true h)
  | read addr len body => exact decode_instrFrame_bytes (of_decide_eq_true h)
  | write addr len body => exact decode_instrFrame_bytes (of_decide_eq_true h)
  | reset addr len body => exact decode_instrFrame_bytes (of_decide_eq_true h)
  | syncWrite addr len body => exact decode_instrFrame_bytes (of_decide_eq_true h)

/-! ### Encode after decode -/

/-- A command is canonical, and its word is the write of its byte to CMD (R111). -/
theorem decodeCommand_canonical (d : Byte) :
    (decodeCommand d).wf = true ∧ encode (decodeCommand d) = .host (encodeHost true 0 d) := by
  unfold decodeCommand
  split_ifs with h0 h1 h2 h3
  · subst h0; exact ⟨rfl, rfl⟩
  · subst h1; exact ⟨rfl, rfl⟩
  · subst h2; exact ⟨rfl, rfl⟩
  · subst h3; exact ⟨rfl, rfl⟩
  · refine ⟨decide_eq_true ?_, rfl⟩
    bv_omega

/-- Settles O3, by the kind of code; a read word keeps its address, so that only its data bits can differ. -/
theorem decodedCodesAreCanonical : Obligations.DecodedCodesAreCanonical := by
  refine ⟨decode_hostRd, fun c i h => ?_⟩
  cases c with
  | host w =>
    obtain ⟨hw, ⟨hwr, ha, rfl⟩ | ⟨hwr, ha, rfl⟩ | ⟨hrd, rfl⟩⟩ := decodeHost_cases h
    · obtain ⟨hwf, henc⟩ := decodeCommand_canonical w.data
      rw [hwr, ha] at hw
      exact ⟨hwf, .inl (henc.trans (congrArg Code.host hw.symm))⟩
    · rw [hwr] at hw
      exact ⟨decide_eq_true ha, .inl (congrArg Code.host hw.symm)⟩
    · rw [hrd] at hw
      refine ⟨rfl, ?_⟩
      by_cases hd : w.data = 0
      · rw [hd] at hw
        exact .inl (congrArg Code.host hw.symm)
      · exact .inr ⟨w.addr, w.data, congrArg Code.host hw, rfl, hd⟩
  | instrFrame bytes =>
    obtain ⟨f, hf, rfl⟩ := map_ok h
    obtain ⟨hwf, rfl⟩ := decodeFrame_eq_ok_iff.1 hf
    exact ⟨(instrOfFrame_canonical hwf).1, .inl (instrOfFrame_canonical hwf).2⟩
  | statusFrame bytes =>
    obtain ⟨f, hf, rfl⟩ := map_ok h
    obtain ⟨hwf, rfl⟩ := decodeFrame_eq_ok_iff.1 hf
    exact ⟨decide_eq_true hwf, .inl rfl⟩

/-! ### The decoder beside the opcode table (R116) -/

/-- Every canonical instruction is matched first by a row of its own mnemonic. -/
theorem tableMnemonic_encode {i : Instr} (h : i.wf = true) : tableMnemonic (encode i) = some i.mnemonic := by
  cases i with
  | nop => exact Laws.InTable.nop h
  | start => exact Laws.InTable.start h
  | abort => exact Laws.InTable.abort h
  | clear => exact Laws.InTable.clear h
  | cmdRsvd d => exact Laws.InTable.cmdRsvd d h
  | hostWr a d => exact Laws.InTable.hostWr a d h
  | hostRd a => exact Laws.InTable.hostRd a h
  | instrFrame f => exact Laws.InTable.instrFrame f h
  | statusFrame f => exact Laws.InTable.statusFrame f h
  | ping addr len body => exact Laws.InTable.ping addr len body h
  | read addr len body => exact Laws.InTable.read addr len body h
  | write addr len body => exact Laws.InTable.write addr len body h
  | reset addr len body => exact Laws.InTable.reset addr len body h
  | syncWrite addr len body => exact Laws.InTable.syncWrite addr len body h

/-- Settles O4: what decodes is canonical, and its own encoding is in the table under its mnemonic. -/
theorem decoderFollowsTable : Obligations.DecoderFollowsTable := by
  intro c i h
  obtain ⟨hwf, rfl | ⟨a, d, rfl, rfl, hd⟩⟩ := decodedCodesAreCanonical.2 c i h
  · exact .inl (tableMnemonic_encode hwf)
  · exact .inr ⟨_, a, rfl, rfl, by rwa [encodeHost_data]⟩

/-- Settles O1: the decoder run on each word and frame the spec writes out. -/
theorem specWordsDecode : Obligations.SpecWordsDecode := by
  unfold Obligations.SpecWordsDecode
  decide

end Sys2Proof.Machine
end

section
/-! SUPPORT. The phases each event leads to (O32). -/

namespace Sys2Proof.Machine

/-! ### Bus events (R250) -/

theorem onTxAccept_phase (s : State) :
    (onTxAccept s).phase = s.phase ∨ s.phase = .tx ∧ (onTxAccept s).phase = .turn := by
  unfold onTxAccept
  split
  · next hp =>
    split
    · exact .inr ⟨hp, rfl⟩
    · exact .inl rfl
  · exact .inl rfl

theorem onTxIdle_phase (s : State) :
    (onTxIdle s).phase = s.phase ∨
      s.phase = .turn ∧ ((onTxIdle s).phase = .idle ∨ (onTxIdle s).phase = .rxM1) := by
  unfold onTxIdle
  split
  · next hp =>
    refine .inr ⟨hp, ?_⟩
    split
    · exact .inl rfl
    · split
      · exact .inl rfl
      · exact .inr rfl
  · exact .inl rfl

theorem onTick_phase (s : State) :
    (onTick s).phase = s.phase ∨ s.phase.isRx = true ∧ (onTick s).phase = .idle := by
  unfold onTick
  split
  · next hp =>
    split
    · exact .inr ⟨hp, rfl⟩
    · exact .inl rfl
  · exact .inl rfl

/-- The rows of the transition table for a received byte, with the phases in which it is dropped (R250, R254). -/
def byteTransitions : List (Phase × Phase) :=
  [(.idle, .idle), (.tx, .tx), (.turn, .turn), (.rxM1, .rxM2), (.rxM2, .rxAddr), (.rxM2, .idle), (.rxAddr, .rxLen),
   (.rxAddr, .idle), (.rxLen, .rxErr), (.rxLen, .idle), (.rxErr, .rxCsum), (.rxErr, .rxPay), (.rxPay, .rxPay),
   (.rxPay, .rxCsum), (.rxCsum, .idle)]

theorem onRxByte_mem_byteTransitions (b : Byte) (s : State) :
    (s.phase, (onRxByte b s).phase) ∈ byteTransitions := by
  cases hp : s.phase with
  | idle | tx | turn => rw [onRxByte_of_not_rx (by rw [hp]; rfl), hp]; decide
  | rxM1 => rw [onRxByte_rxM1 hp]; exact (by decide : (Phase.rxM1, Phase.rxM2) ∈ byteTransitions)
  | rxM2 => rw [onRxByte_rxM2 hp, rxM2Byte, apply_ite State.phase]; dsimp only [complete_phase]; split <;> decide
  | rxAddr => rw [onRxByte_rxAddr hp, rxAddrByte, apply_ite State.phase]; dsimp only [complete_phase]; split <;> decide
  | rxLen => rw [onRxByte_rxLen hp, rxLenByte, apply_ite State.phase]; dsimp only [complete_phase]; split <;> decide
  | rxErr => rw [onRxByte_rxErr hp, rxErrByte]; dsimp only; split <;> decide
  | rxPay => rw [onRxByte_rxPay hp, rxPayByte]; dsimp only; split <;> decide
  | rxCsum =>
    rw [onRxByte_rxCsum hp, rxCsumByte, apply_ite State.phase]
    dsimp only [complete_phase, succeed_phase]
    split <;> decide

/-! ### Host writes -/

theorem startCommand_phase (s : State) :
    (startCommand s).phase = s.phase ∨ s.phase = .idle ∧ (startCommand s).phase = .tx := by
  unfold startCommand
  split
  · next hp =>
    split
    · exact .inl hp.symm
    · exact .inr ⟨hp, rfl⟩
  · exact .inl rfl

theorem abortCommand_phase (s : State) :
    (abortCommand s).phase = s.phase ∨ s.phase = .tx ∧ (abortCommand s).phase = .turn ∨
      s.phase.isRx = true ∧ (abortCommand s).phase = .idle := by
  cases hp : s.phase with
  | idle => exact .inl (by rw [abortCommand_of_idle hp, hp])
  | tx => exact .inr (.inl ⟨rfl, by rw [abortCommand_of_tx hp]⟩)
  | turn => rw [abortCommand_of_turn hp]; split <;> exact .inl hp
  | rxM1 | rxM2 | rxAddr | rxLen | rxErr | rxPay | rxCsum =>
    exact .inr (.inr ⟨rfl, by rw [abortCommand_of_isRx (by rw [hp]; rfl), complete_phase]⟩)

/-- Of the commands only START and ABORT lead to another phase (R130). -/
theorem issueCommand_phase (d : Byte) (s : State) :
    (issueCommand d s).phase = s.phase ∨
      (d = 0x01 ∧ s.phase = .idle ∧ (issueCommand d s).phase = .tx ∨
        d = 0x02 ∧ s.phase = .tx ∧ (issueCommand d s).phase = .turn ∨
        d = 0x02 ∧ s.phase.isRx = true ∧ (issueCommand d s).phase = .idle) := by
  unfold issueCommand
  split_ifs with h1 h2 h3
  · exact (startCommand_phase s).imp_right fun h => .inl ⟨h1, h⟩
  · exact (abortCommand_phase s).imp_right fun h => .inr (h.imp (⟨h2, ·⟩) (⟨h2, ·⟩))
  · exact .inl (by unfold clearCommand; split <;> rfl)
  · exact .inl rfl
  · exact .inl rfl

/-- Settles O32, event by event; a host write elsewhere than at CMD keeps the phase. -/
theorem phaseTransitionsFollowTable : Obligations.PhaseTransitionsFollowTable := by
  refine fun s => ⟨onTxAccept_phase s, onTxIdle_phase s, onTick_phase s,
    fun b => onRxByte_mem_byteTransitions b s, fun a d t h => ?_⟩
  cases h
  obtain hcmd | hw | hw | ⟨-, hw⟩ := writeLoc_cases (locOf a) d s
  · obtain rfl := locOf_cmd hcmd
    exact (issueCommand_phase d s).imp_right (⟨rfl, ·⟩)
  · exact .inl (congrArg State.phase hw)
  · exact .inl ((congrArg State.phase hw).trans (reject_phase s))
  · exact .inl hw.phase

end Sys2Proof.Machine
end

section
/-! SUPPORT. A step by its input: where it answers and where it refuses (O7), the decoded instruction it runs (O6), and
two events of one cycle (O9). -/

namespace Sys2Proof.Machine

/-! ### Inputs that spell nothing (R110, I14) -/

theorem runCode_refused {code : Code} (h : (decode code).isOk = false) (s : State) :
    ∃ e, runCode code s = .refused (.undecodable e) := by
  unfold runCode
  cases hd : decode code with
  | ok i => rw [hd] at h; cases h
  | error e => exact ⟨e, rfl⟩

theorem decode_host_bit18 {w : HostWord} (h : w.getLsbD 18 = true) : decode (.host w) = .error .reservedBit18 :=
  if_pos h

theorem runInput_refused {i : Input} (h : i.spells = false) (s : State) :
    ∃ e, runInput i s = .refused (.undecodable e) := by
  cases i with
  | cycle c =>
    obtain ⟨hrst, w, hw, hbit⟩ : c.rst = false ∧ ∃ w, c.host = some w ∧ w.getLsbD 18 = true := by
      simpa [Input.spells, Option.any_eq_true] using h
    refine ⟨.reservedBit18, ?_⟩
    simp only [runInput, runCycle, hrst, hw, runCode, decode_host_bit18 hbit, thenEvents, Bool.false_eq_true, if_false]
  | instrFrame bytes => exact runCode_refused h s
  | statusFrame bytes => exact runCode_refused h s

theorem step_of_inputs {s : State} {i : Input} {rest : List Input} (h : s.inputs = i :: rest) :
    step s = runInput i (takeInput rest s) := by
  rw [step, h]

/-- Settles O7: whether an input spells something decides between a next state and a refusal. -/
theorem stepStopsOnlyOnWhatSpellsNothing : Obligations.StepStopsOnlyOnWhatSpellsNothing := by
  refine fun s => ⟨fun h => ⟨idleCycle s, by rw [step, h]⟩, fun i rest h => ?_⟩
  rw [step_of_inputs h]
  exact ⟨fun hi => runInput_next hi _, fun hi => runInput_refused hi _⟩

/-! ### The decoded instruction (R261) -/

theorem runCode_of_decode {code : Code} {i : Instr} (h : decode code = .ok i) (s : State) :
    runCode code s = exec i s := by
  rw [runCode, h]

/-- An instruction alone in its input is all that the input does: a quiet cycle adds no event. -/
theorem runInput_inputOfCode (code : Code) (s : State) : runInput (inputOfCode code) s = runCode code s := by
  cases code with
  | host w =>
    show thenEvents _ (thenEvents _ (runCode (.host w) s)) = _
    cases runCode (.host w) s <;> rfl
  | instrFrame bytes => rfl
  | statusFrame bytes => rfl

/-- Settles O6: a host word is the host access of its cycle, and a frame or a placed instruction is run alone. -/
theorem stepRunsDecodedInstruction : Obligations.StepRunsDecodedInstruction := by
  refine ⟨fun s c rest w i hi hr hw hd => ?_, fun s bytes rest i hi hd => ?_, fun s bytes rest i hi hd => ?_,
    fun s code i hd => ?_⟩
  · obtain ⟨t, hx⟩ := exec_next i (takeInput rest s)
    rw [step_of_hostAccess hi hr (.inr ⟨w, i, hw, hd, hx⟩), hx, thenEvents]
  · rw [step_of_inputs hi, runInput, runCode_of_decode hd]
  · rw [step_of_inputs hi, runInput, runCode_of_decode hd]
  · rw [step_of_inputs rfl, runInput_inputOfCode, runCode_of_decode hd]
    rfl

/-! ### Two events of one cycle (R262, R287) -/

theorem busy_of_isRx {s : State} (h : s.phase.isRx = true) : s.phase ≠ .idle :=
  fun hp => absurd h (Bool.eq_false_iff.1 (not_isRx_of_idle hp))

/-- In an RX phase a byte ends the exchange, or leads to an RX phase with the timer restarted. -/
theorem onRxByte_ends_or_receives {s : State} (h : s.phase.isRx = true) (b : Byte) :
    (onRxByte b s).phase = .idle ∨ (onRxByte b s).phase.isRx = true ∧ (onRxByte b s).tmr = 0 := by
  cases hp : s.phase with
  | idle | tx | turn => rw [hp] at h; cases h
  | rxM1 => rw [onRxByte_rxM1 hp]; exact .inr ⟨rfl, rfl⟩
  | rxM2 => rw [onRxByte_rxM2 hp, rxM2Byte]; split <;> [exact .inr ⟨rfl, rfl⟩; exact .inl rfl]
  | rxAddr => rw [onRxByte_rxAddr hp, rxAddrByte]; split <;> [exact .inl rfl; exact .inr ⟨rfl, rfl⟩]
  | rxLen => rw [onRxByte_rxLen hp, rxLenByte]; split <;> [exact .inl rfl; exact .inr ⟨rfl, rfl⟩]
  | rxErr => rw [onRxByte_rxErr hp, rxErrByte]; dsimp only; split <;> exact .inr ⟨rfl, rfl⟩
  | rxPay => rw [onRxByte_rxPay hp, rxPayByte]; dsimp only; split <;> exact .inr ⟨rfl, rfl⟩
  | rxCsum => rw [onRxByte_rxCsum hp, rxCsumByte]; split <;> exact .inl rfl

/-- An ABORT in an RX phase leaves nothing for the bus events of its cycle (R287 (3)). -/
theorem step_abort_of_isRx {s : State} (h : s.phase.isRx = true) {rest : List Input} {b : Byte}
    (hi : s.inputs = .cycle { Cycle.quiet with host := some 0x80002, rx := some b } :: rest) :
    step s = .next (complete .aborted s.phase (takeInput rest s)) := by
  have access : HostAccess { Cycle.quiet with host := some 0x80002, rx := some b } (takeInput rest s)
      (abortCommand (takeInput rest s)) := .inr ⟨_, _, rfl, decode_command 0x02, rfl⟩
  rw [step_of_hostAccess hi rfl access, abortCommand_of_isRx (s := takeInput rest s) h,
    busEvents_of_idle (complete_phase _ _ _)]
  rfl

/-- A byte and a tick in one cycle: the tick finds what the byte left. -/
theorem step_byte_and_tick {s : State} {rest : List Input} {b : Byte}
    (hi : s.inputs = .cycle { Cycle.quiet with rx := some b, tick := true } :: rest) :
    step s = .next (onTick (onRxByte b (takeInput rest s))) :=
  step_of_hostAccess hi rfl (.inl ⟨rfl, rfl⟩)

/-- Settles O9: an ABORT is a completion before the byte comes, and the tick after a byte sees a timer of 0. -/
theorem sameCyclePriority : Obligations.SameCyclePriority := by
  refine fun s b rest h => ⟨fun hi => step_abort_of_isRx h hi, fun hi => ⟨_, step_byte_and_tick hi, ?_⟩⟩
  rintro u rfl
  generalize hu : onRxByte b (takeInput rest s) = u
  have htimeout : u.timeout = s.timeout := by
    have frame := onRxByte_frame b (takeInput rest s)
    rw [hu] at frame
    rw [State.timeout, frame.timeoutHi, frame.timeoutLo]
    rfl
  have receives (hp : u.phase ≠ .idle) : u.phase.isRx = true ∧ u.tmr = 0 := by
    have hb := onRxByte_ends_or_receives (s := takeInput rest s) h b
    rw [hu] at hb
    exact hb.resolve_left hp
  refine ⟨fun hp => onTick_of_idle hp, fun hp ht => ?_, fun hp ht => ?_⟩
  · obtain ⟨hrx, htmr⟩ := receives hp
    rw [onTick_times_out hrx (by rw [htmr, htimeout]; exact ht)]
    exact ⟨rfl, rfl, rfl⟩
  · obtain ⟨hrx, htmr⟩ := receives hp
    rw [onTick_counts hrx (by rw [htmr, htimeout]; exact ht), htmr]
    exact ⟨rfl, rfl⟩

end Sys2Proof.Machine
end

section
/-! SUPPORT. The invariant read by phase: what it says in IDLE (O11), and while an exchange is in flight. -/

namespace Sys2Proof.Machine

/-! ### The buffers' memory -/

/-- The invariant's part about the buffers: the canonical form, and no cell outside TX_BUF and RX_BUF. -/
structure MemoryInv (m : Memory) : Prop where
  wf      : Memory.wf m = true
  buffers : ∀ c ∈ m, isBufferAddr c.1 = true

theorem MemoryInv.write {m : Memory} (h : MemoryInv m) {a : Nat} (ha : isBufferAddr a = true) (v : Byte) :
    MemoryInv (Memory.write m a v) where
  wf := Memory.wf_write h.wf a v
  buffers := fun c hc => (Memory.mem_write hc).elim (fun he => by rwa [he]) (h.buffers c)

theorem isBufferAddr_txBufAddr {i : Nat} (h : i < 253) : isBufferAddr (txBufAddr i) = true :=
  decide_eq_true (by unfold txBufAddr; omega)

theorem isBufferAddr_rxBufAddr {i : Nat} (h : i < 253) : isBufferAddr (rxBufAddr i) = true :=
  decide_eq_true (by unfold rxBufAddr; omega)

theorem Invariant.memoryInv {s : State} (h : Invariant s) : MemoryInv s.mem := ⟨h.mem_wf, h.mem_buffers⟩

/-! ### IDLE -/

theorem invariant_of_idle {s : State} (hp : s.phase = .idle) (hm : MemoryInv s.mem) (ha : s.abrt = false)
    (hd : s.deverr = true → s.faultCode.code = 0 ∧ s.done = true) : Invariant s where
  done_idle := fun _ => hp
  abrt_turn := fun h => absurd (ha.symm.trans h) Bool.false_ne_true
  tx_bounds := by rw [hp]; nofun
  rx_timer := fun h => absurd h (Bool.eq_false_iff.1 (not_isRx_of_idle hp))
  pay_count := by rw [hp]; nofun
  csum_count := by rw [hp]; nofun
  deverr_done := hd
  mem_wf := hm.wf
  mem_buffers := hm.buffers
  busy_none := fun h => absurd hp h
  busy_phase := fun h => absurd hp h
  abrt_phase := fun h => absurd (ha.symm.trans h) Bool.false_ne_true
  tx_csum := by rw [hp]; nofun
  csum_length := by rw [hp]; rintro (h | h) <;> cases h
  cnt_zero := fun h => absurd hp h
  addr_zero := fun h => absurd hp h
  len_zero := fun h => absurd hp h
  err_zero := fun h => absurd hp h
  csum_zero := fun h => absurd hp h
  addr_match := by rw [hp]; exact fun h => absurd h (by decide)
  acc_len := by rw [hp]; nofun
  acc_err := by rw [hp]; nofun
  acc_pay := by rw [hp]; rintro (h | h) <;> cases h

theorem Invariant.abrt_of_idle {s : State} (h : Invariant s) (hp : s.phase = .idle) : s.abrt = false := by
  refine Bool.eq_false_iff.2 fun ha => ?_
  have hturn := h.abrt_turn ha
  rw [hp] at hturn
  cases hturn

/-- A completion meets the invariant whenever its buffers do (R282). -/
theorem complete_invariant {s : State} (hm : MemoryInv s.mem) (f : FaultCode) (p : Phase) :
    Invariant (complete f p s) :=
  invariant_of_idle rfl hm rfl nofun

/-- A success sets DEVERR only beside DONE and without a fault (R200). -/
theorem succeed_invariant {s : State} (hm : MemoryInv s.mem) : Invariant (succeed s) :=
  invariant_of_idle rfl hm rfl fun _ => ⟨rfl, rfl⟩

/-- Settles O11: right after reset the block is in IDLE, with no buffer byte written and DEVERR = 0. -/
theorem invHoldsAtReset : Obligations.InvHoldsAtReset :=
  fun _ => invariant_of_idle rfl ⟨rfl, nofun⟩ rfl nofun

/-! ### An exchange in flight -/

/-- What the result registers, RX_CNT and ACC hold in each busy phase: nothing before the address byte, and then what
has been received and summed so far (R194 to R198, R202). -/
def State.ReceivedSoFar (s : State) : Prop :=
  match s.phase with
  | .idle => True
  | .tx | .turn | .rxM1 | .rxM2 | .rxAddr => s.rxAddr = 0 ∧ s.rxLen = 0 ∧ s.rxErr = 0 ∧ s.rxCnt = 0
  | .rxLen => s.rxAddr = s.txAddr ∧ s.rxLen = 0 ∧ s.rxErr = 0 ∧ s.rxCnt = 0 ∧ s.acc = sum8 [s.rxAddr]
  | .rxErr => s.rxAddr = s.txAddr ∧ 2 ≤ s.rxLen.toNat ∧ s.rxErr = 0 ∧ s.rxCnt = 0 ∧ s.acc = sum8 [s.rxAddr, s.rxLen]
  | .rxPay => s.rxAddr = s.txAddr ∧ s.rxCnt.toNat + 2 < s.rxLen.toNat ∧
      s.acc = sum8 (s.rxAddr :: s.rxLen :: s.rxErr :: s.rxPayload)
  | .rxCsum => s.rxAddr = s.txAddr ∧ s.rxCnt.toNat + 2 = s.rxLen.toNat ∧
      s.acc = sum8 (s.rxAddr :: s.rxLen :: s.rxErr :: s.rxPayload)

/-- No ABORT is marked, or one is, in TURN (R42, R54, R134). -/
def State.AbortRecord (s : State) : Prop :=
  s.abrt = false ∧ s.faultPhase = .idle ∨ s.phase = .turn ∧ s.abrt = true ∧ s.faultPhase.isTx = true

/-- The invariant of a busy block. -/
structure InFlight (s : State) : Prop where
  memory     : MemoryInv s.mem
  not_done   : s.done = false
  not_deverr : s.deverr = false
  no_fault   : s.faultCode = .none
  no_csum    : s.rxCsum = 0 ∧ s.rxCalc = 0
  abort      : s.AbortRecord
  received   : s.ReceivedSoFar
  sending    : s.phase = .tx →
    s.idx.toNat ≤ s.txLen.toNat + 5 ∧ s.txLen.toNat ≤ 253 ∧ s.txAddr.toNat ≤ 0xFE ∧ s.txCsum = frameChecksum s
  timer      : s.phase.isRx = true → s.tmr.toNat < max s.timeout.toNat 1

theorem Invariant.abortRecord {s : State} (h : Invariant s) (hp : s.phase ≠ .idle) : s.AbortRecord := by
  cases ha : s.abrt with
  | false => exact .inl ⟨ha, h.busy_phase hp ha⟩
  | true => exact .inr ⟨h.abrt_turn ha, ha, h.abrt_phase ha⟩

theorem Invariant.receivedSoFar {s : State} (h : Invariant s) : s.ReceivedSoFar := by
  have haddr0 := h.addr_zero
  have hlen0 := h.len_zero
  have herr0 := h.err_zero
  have hcnt0 := h.cnt_zero
  have haddr := h.addr_match
  unfold State.ReceivedSoFar
  cases hp : s.phase <;> rw [hp] at haddr0 hlen0 herr0 hcnt0 haddr
  case idle => trivial
  case tx | turn | rxM1 | rxM2 | rxAddr =>
    exact ⟨haddr0 nofun (by decide), hlen0 nofun (by decide), herr0 nofun (by decide), hcnt0 nofun (by decide)⟩
  case rxLen =>
    exact ⟨haddr (by decide), hlen0 nofun (by decide), herr0 nofun (by decide), hcnt0 nofun (by decide), h.acc_len hp⟩
  case rxErr =>
    exact ⟨haddr (by decide), h.csum_length (.inl hp), herr0 nofun (by decide), hcnt0 nofun (by decide), h.acc_err hp⟩
  case rxPay =>
    obtain ⟨hlen, hroom⟩ := h.pay_count hp
    exact ⟨haddr (by decide), by omega, h.acc_pay (.inl hp)⟩
  case rxCsum =>
    have hlen := h.csum_length (.inr hp)
    have hcnt := h.csum_count hp
    exact ⟨haddr (by decide), by omega, h.acc_pay (.inr hp)⟩

theorem Invariant.inFlight {s : State} (h : Invariant s) (hp : s.phase ≠ .idle) : InFlight s where
  memory := h.memoryInv
  not_done := Bool.eq_false_iff.2 fun hd => hp (h.done_idle hd)
  not_deverr := Bool.eq_false_iff.2 fun hd => hp (h.done_idle (h.deverr_done hd).2)
  no_fault := h.busy_none hp
  no_csum := h.csum_zero hp
  abort := h.abortRecord hp
  received := h.receivedSoFar
  sending := fun ht =>
    have ⟨hidx, hlen, haddr⟩ := h.tx_bounds ht
    ⟨hidx, hlen, haddr, h.tx_csum ht⟩
  timer := h.rx_timer

/-- The result registers by the number of the phase: each 0 up to its own, and the address TX_ADDR after its. -/
theorem State.ReceivedSoFar.by_code {s : State} (h : s.ReceivedSoFar) (hp : s.phase ≠ .idle) :
    (s.phase.code.toNat ≤ 5 → s.rxAddr = 0) ∧ (s.phase.code.toNat ≤ 6 → s.rxLen = 0) ∧
      (s.phase.code.toNat ≤ 7 → s.rxErr = 0 ∧ s.rxCnt = 0) ∧ (6 ≤ s.phase.code.toNat → s.rxAddr = s.txAddr) := by
  unfold State.ReceivedSoFar at h
  cases hph : s.phase <;> rw [hph] at h
  case idle => exact absurd hph hp
  case tx | turn | rxM1 | rxM2 | rxAddr =>
    obtain ⟨haddr, hlen, herr, hcnt⟩ := h
    exact ⟨fun _ => haddr, fun _ => hlen, fun _ => ⟨herr, hcnt⟩, fun hc => absurd hc (by decide)⟩
  case rxLen =>
    obtain ⟨haddr, hlen, herr, hcnt, -⟩ := h
    exact ⟨fun hc => absurd hc (by decide), fun _ => hlen, fun _ => ⟨herr, hcnt⟩, fun _ => haddr⟩
  case rxErr =>
    obtain ⟨haddr, -, herr, hcnt, -⟩ := h
    exact ⟨fun hc => absurd hc (by decide), fun hc => absurd hc (by decide), fun _ => ⟨herr, hcnt⟩, fun _ => haddr⟩
  case rxPay | rxCsum =>
    exact ⟨fun hc => absurd hc (by decide), fun hc => absurd hc (by decide), fun hc => absurd hc (by decide),
      fun _ => h.1⟩

/-- Before the address byte nothing has been received. -/
theorem State.ReceivedSoFar.nothing {s : State} (h : s.ReceivedSoFar) (hp : s.phase ≠ .idle)
    (hc : s.phase.code.toNat ≤ 5) : s.rxAddr = 0 ∧ s.rxLen = 0 ∧ s.rxErr = 0 ∧ s.rxCnt = 0 := by
  obtain ⟨haddr, hlen, herr, -⟩ := h.by_code hp
  exact ⟨haddr hc, hlen (by omega), herr (by omega)⟩

theorem State.ReceivedSoFar.at_rxLen {s : State} (h : s.ReceivedSoFar) (hp : s.phase = .rxLen) :
    s.acc = sum8 [s.rxAddr] := by
  rw [State.ReceivedSoFar, hp] at h
  obtain ⟨-, -, -, -, hacc⟩ := h
  exact hacc

theorem State.ReceivedSoFar.at_rxErr {s : State} (h : s.ReceivedSoFar) (hp : s.phase = .rxErr) :
    s.rxAddr = s.txAddr ∧ 2 ≤ s.rxLen.toNat ∧ s.rxCnt = 0 ∧ s.acc = sum8 [s.rxAddr, s.rxLen] := by
  rw [State.ReceivedSoFar, hp] at h
  obtain ⟨haddr, hlen, -, hcnt, hacc⟩ := h
  exact ⟨haddr, hlen, hcnt, hacc⟩

theorem State.ReceivedSoFar.at_rxPay {s : State} (h : s.ReceivedSoFar) (hp : s.phase = .rxPay) :
    s.rxAddr = s.txAddr ∧ s.rxCnt.toNat + 2 < s.rxLen.toNat ∧
      s.acc = sum8 (s.rxAddr :: s.rxLen :: s.rxErr :: s.rxPayload) := by
  rwa [State.ReceivedSoFar, hp] at h

theorem State.ReceivedSoFar.at_rxCsum {s : State} (h : s.ReceivedSoFar) (hp : s.phase = .rxCsum) :
    s.rxAddr = s.txAddr ∧ s.rxCnt.toNat + 2 = s.rxLen.toNat ∧
      s.acc = sum8 (s.rxAddr :: s.rxLen :: s.rxErr :: s.rxPayload) := by
  rwa [State.ReceivedSoFar, hp] at h

theorem State.AbortRecord.turn_of_abrt {s : State} (h : s.AbortRecord) (ha : s.abrt = true) :
    s.phase = .turn ∧ s.faultPhase.isTx = true := by
  obtain ⟨hn, -⟩ | ⟨hp, -, hf⟩ := h
  · exact absurd (hn.symm.trans ha) Bool.false_ne_true
  · exact ⟨hp, hf⟩

theorem State.AbortRecord.faultPhase_of_not_abrt {s : State} (h : s.AbortRecord) (ha : s.abrt = false) :
    s.faultPhase = .idle := by
  obtain ⟨-, hf⟩ | ⟨-, hm, -⟩ := h
  · exact hf
  · exact absurd (ha.symm.trans hm) Bool.false_ne_true

theorem InFlight.invariant {s : State} (h : InFlight s) (hp : s.phase ≠ .idle) : Invariant s := by
  obtain ⟨haddr0, hlen0, herr0, haddr⟩ := h.received.by_code hp
  exact {
    done_idle := fun hd => absurd (h.not_done.symm.trans hd) Bool.false_ne_true
    abrt_turn := fun ha => (h.abort.turn_of_abrt ha).1
    tx_bounds := fun ht => have ⟨hidx, hlen, htx, _⟩ := h.sending ht; ⟨hidx, hlen, htx⟩
    rx_timer := h.timer
    pay_count := fun ht => by have ⟨_, hroom, _⟩ := h.received.at_rxPay ht; omega
    csum_count := fun ht => by have ⟨_, hfull, _⟩ := h.received.at_rxCsum ht; omega
    deverr_done := fun hd => absurd (h.not_deverr.symm.trans hd) Bool.false_ne_true
    mem_wf := h.memory.wf
    mem_buffers := h.memory.buffers
    busy_none := fun _ => h.no_fault
    busy_phase := fun _ => h.abort.faultPhase_of_not_abrt
    abrt_phase := fun ha => (h.abort.turn_of_abrt ha).2
    tx_csum := fun ht => have ⟨_, _, _, hcsum⟩ := h.sending ht; hcsum
    csum_length := by
      rintro (ht | ht)
      · have ⟨_, hlen, _⟩ := h.received.at_rxErr ht
        exact hlen
      · have ⟨_, hfull, _⟩ := h.received.at_rxCsum ht
        omega
    cnt_zero := fun _ hc => (herr0 hc).2
    addr_zero := fun _ => haddr0
    len_zero := fun _ => hlen0
    err_zero := fun _ hc => (herr0 hc).1
    csum_zero := fun _ => h.no_csum
    addr_match := haddr
    acc_len := h.received.at_rxLen
    acc_err := fun ht => have ⟨_, _, _, hacc⟩ := h.received.at_rxErr ht; hacc
    acc_pay := by
      rintro (ht | ht)
      · have ⟨_, _, hacc⟩ := h.received.at_rxPay ht
        exact hacc
      · have ⟨_, _, hacc⟩ := h.received.at_rxCsum ht
        exact hacc }

end Sys2Proof.Machine
end

section
/-! SUPPORT. Every step keeps the invariant (O12), and so every reachable state meets it (O13). -/

namespace Sys2Proof.Machine

/-! ### The model's own fields, and REJ -/

/-- The invariant speaks neither of REJ nor of the model's own fields. -/
theorem Invariant.with_own {s : State} (h : Invariant s) (r : Bool) (d : Option Byte) (w : List Byte)
    (ins : List Input) : Invariant { s with rej := r, hRData := d, sent := w, inputs := ins } := { h with }

/-! ### What the UART takes, and the turnaround -/

theorem State.AbortRecord.unmarked {s : State} (h : s.AbortRecord) (hp : s.phase ≠ .turn) :
    s.abrt = false ∧ s.faultPhase = .idle :=
  h.resolve_right fun ht => hp ht.1

/-- An exchange that has sent its frame, or whose sending an ABORT cuts short, waits in TURN. -/
theorem InFlight.turns {s : State} (h : InFlight s) (hp : s.phase = .tx) {a : Bool} {p : Phase} (w : List Byte)
    (ha : a = false ∧ p = .idle ∨ a = true ∧ p.isTx = true) :
    InFlight { s with sent := w, abrt := a, faultPhase := p, phase := .turn } where
  memory := h.memory
  not_done := h.not_done
  not_deverr := h.not_deverr
  no_fault := h.no_fault
  no_csum := h.no_csum
  abort := ha.imp_right (⟨rfl, ·⟩)
  received := h.received.nothing (by rw [hp]; nofun) (by rw [hp]; decide)
  sending := nofun
  timer := nofun

/-- A byte before the frame's last leaves the exchange in TX, IDX within the frame. -/
theorem InFlight.byteTaken {s : State} (h : InFlight s) (hi : s.idx.toNat ≠ s.txLen.toNat + 5) :
    InFlight s.byteTaken where
  memory := h.memory
  not_done := h.not_done
  not_deverr := h.not_deverr
  no_fault := h.no_fault
  no_csum := h.no_csum
  abort := h.abort
  received := h.received
  sending := fun ht => by
    obtain ⟨hidx, hlen, haddr, hcsum⟩ := h.sending ht
    have hnext : s.byteTaken.idx.toNat = s.idx.toNat + 1 := by
      have := s.txLen.isLt
      rw [State.byteTaken]
      bv_omega
    exact ⟨by rw [hnext, byteTaken_txLen]; omega, hlen, haddr, hcsum⟩
  timer := h.timer

theorem onTxAccept_invariant {s : State} (h : Invariant s) : Invariant (onTxAccept s) := by
  by_cases hp : s.phase = .tx
  · have busy := h.inFlight (by rw [hp]; nofun)
    by_cases hi : s.idx.toNat = s.txLen.toNat + 5
    · rw [onTxAccept_last hp hi, frameTaken_of_last hi]
      exact (busy.turns hp _ (.inl (busy.abort.unmarked (by rw [hp]; nofun)))).invariant nofun
    · rw [onTxAccept_more hp hi]
      exact (busy.byteTaken hi).invariant (by rw [State.byteTaken, hp]; nofun)
  · rwa [onTxAccept_of_ne hp]

theorem tmr_zero_lt (t : BitVec 16) : (0 : BitVec 16).toNat < max t.toNat 1 :=
  lt_max_of_lt_right Nat.zero_lt_one

theorem onTxIdle_invariant {s : State} (h : Invariant s) : Invariant (onTxIdle s) := by
  by_cases hp : s.phase = .turn
  · have busy := h.inFlight (by rw [hp]; nofun)
    cases ha : s.abrt with
    | true => rw [onTxIdle_aborted hp ha]; exact complete_invariant h.memoryInv _ _
    | false =>
      cases hs : s.suppress with
      | true => rw [onTxIdle_suppressed hp ha hs]; exact complete_invariant h.memoryInv _ _
      | false =>
        rw [onTxIdle_receive hp ha hs]
        have waiting : InFlight { s with tmr := 0, acc := 0x00, m1 := 0x00, phase := .rxM1 } := { busy with
          abort := .inl ⟨ha, busy.abort.faultPhase_of_not_abrt ha⟩
          received := busy.received.nothing (by rw [hp]; nofun) (by rw [hp]; decide)
          sending := nofun
          timer := fun _ => tmr_zero_lt s.timeout }
        exact waiting.invariant nofun
  · rwa [onTxIdle_of_ne hp]

/-! ### Ticks and received bytes -/

theorem onTick_invariant {s : State} (h : Invariant s) : Invariant (onTick s) := by
  cases hrx : s.phase.isRx with
  | false => rwa [onTick_of_not_rx hrx]
  | true =>
    by_cases ht : s.timeout ≤ s.tmr + 1
    · rw [onTick_times_out hrx ht]
      exact complete_invariant (s := { s with tmr := s.tmr + 1 }) h.memoryInv _ _
    · rw [onTick_counts hrx (BitVec.not_le.1 ht)]
      exact { h with rx_timer := fun _ => lt_max_of_lt_left (BitVec.not_le.1 ht) }

/-- A received byte that keeps the exchange going: the next RX phase, with the timer restarted. -/
theorem InFlight.receives {s t : State} (h : InFlight s) (hs : s.phase.isRx = true) (ht : t.phase.isRx = true)
    (hsame : t = { s with phase := t.phase, rxAddr := t.rxAddr, rxLen := t.rxLen, rxErr := t.rxErr, rxCnt := t.rxCnt,
                          acc := t.acc, m1 := t.m1, tmr := 0, mem := t.mem })
    (hm : MemoryInv t.mem) (hr : t.ReceivedSoFar) : Invariant t := by
  have hturn : s.phase ≠ .turn := fun hp => by rw [hp] at hs; cases hs
  have htx : t.phase ≠ .tx := fun hp => by rw [hp] at ht; cases ht
  have going : InFlight t := {
    memory := hm
    not_done := by rw [hsame]; exact h.not_done
    not_deverr := by rw [hsame]; exact h.not_deverr
    no_fault := by rw [hsame]; exact h.no_fault
    no_csum := by rw [hsame]; exact h.no_csum
    abort := .inl (by rw [hsame]; exact h.abort.unmarked hturn)
    received := hr
    sending := fun hp => absurd hp htx
    timer := fun _ => by rw [hsame]; exact tmr_zero_lt s.timeout }
  exact going.invariant (busy_of_isRx ht)

theorem sum8_concat (bs : List Byte) (b : Byte) : sum8 (bs ++ [b]) = sum8 bs + b := by
  simp [sum8_append, sum8]

/-- With nothing counted there is no payload. -/
theorem rxPayload_of_rxCnt_zero {s : State} (h : s.rxCnt = 0) : s.rxPayload = [] := by
  rw [State.rxPayload, h]
  rfl

/-- A stored payload byte is the last of the payload counted with it (R198). -/
theorem rxPayload_rxPayByte {s : State} (h : s.rxCnt.toNat < 253) (b : Byte) :
    (rxPayByte b s).rxPayload = s.rxPayload ++ [b] := by
  have hnext : (s.rxCnt + 1).toNat = s.rxCnt.toNat + 1 := by bv_omega
  have hold : ∀ k ∈ List.range s.rxCnt.toNat,
      Memory.byteAt (Memory.write s.mem (rxBufAddr s.rxCnt.toNat) b) (rxBufAddr k) = s.rxBuf k := by
    intro k hk
    have hlt := List.mem_range.1 hk
    exact Memory.byteAt_write_other _ (by unfold rxBufAddr; omega) _
  rw [rxPayByte_stored h]
  simp only [State.rxPayload, State.rxBuf, hnext, List.range_succ, List.map_append, List.map_singleton,
    Memory.byteAt_write_same]
  exact congrArg (· ++ [b]) (List.map_congr_left hold)

theorem rxErrByte_invariant {s : State} (h : InFlight s) (hp : s.phase = .rxErr) (b : Byte) :
    Invariant (rxErrByte b s) := by
  obtain ⟨haddr, hlen, hcnt, hacc⟩ := h.received.at_rxErr hp
  have hsum : s.acc + b = sum8 (s.rxAddr :: s.rxLen :: b :: s.rxPayload) := by
    rw [hacc, rxPayload_of_rxCnt_zero hcnt, ← sum8_concat]
    rfl
  have hrx : s.phase.isRx = true := by rw [hp]; rfl
  by_cases h2 : s.rxLen = 2
  · rw [rxErrByte_empty h2]
    exact h.receives hrx rfl rfl h.memory ⟨haddr, by rw [hcnt, h2]; rfl, hsum⟩
  · rw [rxErrByte_payload h2]
    exact h.receives hrx rfl rfl h.memory ⟨haddr, by rw [hcnt]; bv_omega, hsum⟩

theorem rxPayByte_invariant {s : State} (h : InFlight s) (hp : s.phase = .rxPay) (b : Byte) :
    Invariant (rxPayByte b s) := by
  obtain ⟨haddr, hroom, hacc⟩ := h.received.at_rxPay hp
  have hcnt : s.rxCnt.toNat < 253 := by have := s.rxLen.isLt; omega
  have hnext : (s.rxCnt + 1).toNat = s.rxCnt.toNat + 1 := by bv_omega
  have hsum : s.acc + b = sum8 (s.rxAddr :: s.rxLen :: s.rxErr :: (rxPayByte b s).rxPayload) := by
    rw [hacc, rxPayload_rxPayByte hcnt, ← sum8_concat]
    rfl
  have hm : MemoryInv (Memory.write s.mem (rxBufAddr s.rxCnt.toNat) b) :=
    h.memory.write (isBufferAddr_rxBufAddr hcnt) b
  have hrx : s.phase.isRx = true := by rw [hp]; rfl
  rw [rxPayByte_stored hcnt] at hsum ⊢
  by_cases hlast : (s.rxCnt + 1).toNat + 2 = s.rxLen.toNat
  · rw [if_pos hlast] at hsum ⊢
    exact h.receives hrx rfl rfl hm ⟨haddr, hlast, hsum⟩
  · rw [if_neg hlast] at hsum ⊢
    exact h.receives hrx rfl rfl hm ⟨haddr, by dsimp only; omega, hsum⟩

theorem onRxByte_invariant {s : State} (h : Invariant s) (b : Byte) : Invariant (onRxByte b s) := by
  cases hrx : s.phase.isRx with
  | false => rwa [onRxByte_of_not_rx hrx]
  | true =>
    have busy := h.inFlight (busy_of_isRx hrx)
    have hm := h.memoryInv
    have hr := busy.received
    unfold State.ReceivedSoFar at hr
    cases hp : s.phase <;> rw [hp] at hr
    case idle | tx | turn => rw [hp] at hrx; cases hrx
    case rxM1 =>
      rw [onRxByte_rxM1 hp]
      exact busy.receives hrx rfl rfl hm hr
    case rxM2 =>
      rw [onRxByte_rxM2 hp, rxM2Byte]
      split
      · exact busy.receives hrx rfl rfl hm hr
      · exact complete_invariant hm _ _
    case rxAddr =>
      rw [onRxByte_rxAddr hp, rxAddrByte]
      split
      · exact complete_invariant (s := { s with rxAddr := b, acc := b }) hm _ _
      · next haddr =>
        obtain ⟨-, hlen, herr, hcnt⟩ := hr
        exact busy.receives hrx rfl rfl hm ⟨not_not.1 haddr, hlen, herr, hcnt, (BitVec.add_zero b).symm⟩
    case rxLen =>
      rw [onRxByte_rxLen hp, rxLenByte]
      split
      · exact complete_invariant (s := { s with rxLen := b, acc := s.acc + b }) hm _ _
      · next hlen =>
        obtain ⟨haddr, -, herr, hcnt, hacc⟩ := hr
        refine busy.receives hrx rfl rfl hm ⟨haddr, Nat.not_lt.1 hlen, herr, hcnt, ?_⟩
        dsimp only
        rw [hacc, ← sum8_concat]
        rfl
    case rxErr => rw [onRxByte_rxErr hp]; exact rxErrByte_invariant busy hp b
    case rxPay => rw [onRxByte_rxPay hp]; exact rxPayByte_invariant busy hp b
    case rxCsum =>
      rw [onRxByte_rxCsum hp, rxCsumByte]
      split
      · exact complete_invariant (s := { s with rxCsum := b, rxCalc := ~~~ s.acc }) hm _ _
      · exact succeed_invariant hm

/-! ### Host writes -/

theorem abortCommand_invariant {s : State} (h : Invariant s) : Invariant (abortCommand s) := by
  by_cases hp : s.phase = .idle
  · rwa [abortCommand_of_idle hp]
  have busy := h.inFlight hp
  by_cases htx : s.phase = .tx
  · rw [abortCommand_of_tx htx]
    exact (busy.turns htx s.sent (.inr ⟨rfl, rfl⟩)).invariant nofun
  by_cases hturn : s.phase = .turn
  · rw [abortCommand_of_turn hturn]
    split
    · exact h
    · have marked : InFlight { s with abrt := true, faultPhase := .turn } :=
        { busy with abort := .inr ⟨hturn, rfl, rfl⟩ }
      exact marked.invariant hp
  · have hrx : s.phase.isRx = true := by
      revert hp htx hturn
      cases s.phase <;> simp [Phase.isRx, Phase.code]
    rw [abortCommand_of_isRx hrx]
    exact complete_invariant h.memoryInv _ _

theorem startCommand_invariant {s : State} (h : Invariant s) (hp : s.phase = .idle) :
    Invariant (startCommand s) := by
  rw [startCommand, if_pos hp]
  split
  · exact complete_invariant (s := clearResults s) h.memoryInv _ _
  · next hcheck =>
    obtain ⟨haddr, hlen⟩ := (startCheck_eq_none_iff s).1 hcheck
    have hmax : s.txAddr.toNat ≤ 0xFE := by bv_omega
    have begun : InFlight (beginTx (clearResults s)) := {
      memory := h.memoryInv
      not_done := rfl
      not_deverr := rfl
      no_fault := rfl
      no_csum := ⟨rfl, rfl⟩
      abort := .inl ⟨rfl, rfl⟩
      received := ⟨rfl, rfl, rfl, rfl⟩
      sending := fun _ => ⟨Nat.zero_le _, hlen, hmax, rfl⟩
      timer := nofun }
    exact begun.invariant nofun

theorem issueCommand_mem (d : Byte) (s : State) : (issueCommand d s).mem = s.mem := by
  obtain h | h | h | ⟨hp, ⟨-, h⟩ | ⟨-, h⟩⟩ := issueCommand_cases d s
  · rw [h]
  · rw [h]; rfl
  · rw [h]
    unfold abortCommand
    split
    · rfl
    · rfl
    · split <;> rfl
    · rfl
  · rw [h, startCommand, if_pos hp]
    split <;> rfl
  · rw [h]; rfl

/-- A host write stores at most one byte, in TX_BUF (R72, R74). -/
theorem hostWrite_memoryInv {s : State} (h : MemoryInv s.mem) (a : HostAddr) (d : Byte) :
    MemoryInv (hostWrite a d s).mem := by
  rw [hostWrite]
  cases hl : locOf a with
  | cmd => rwa [writeLoc, issueCommand_mem]
  | cfg | txAddr | txOpc | txLen | timeoutLo | timeoutHi =>
    dsimp only [writeLoc, writeRw]
    split <;> exact h
  | txBuf i =>
    dsimp only [writeLoc, writeRw]
    split
    · exact h.write (isBufferAddr_txBufAddr (locOf_txBuf_lt hl)) d
    · exact h
  | _ => exact h

theorem SameButSettings.invariant {s t : State} (hst : SameButSettings s t) (h : Invariant s) (hp : s.phase = .idle)
    (hm : MemoryInv t.mem) : Invariant t := by
  have habrt : t.abrt = s.abrt := by rw [hst]
  have hdeverr : t.deverr = s.deverr := by rw [hst]
  have hfault : t.faultCode = s.faultCode := by rw [hst]
  refine invariant_of_idle (hst.phase.trans hp) hm (habrt.trans (h.abrt_of_idle hp)) ?_
  rw [hdeverr, hfault, hst.done]
  exact h.deverr_done

theorem hostWrite_invariant {s : State} (h : Invariant s) (a : HostAddr) (d : Byte) :
    Invariant (hostWrite a d s) := by
  obtain hw | hw | hw | ⟨hp, ⟨-, -, hw⟩ | ⟨-, -, hw⟩ | hw⟩ := hostWrite_cases a d s
  · rwa [hw]
  · rw [hw]; exact h.with_own true s.hRData s.sent s.inputs
  · rw [hw]; exact abortCommand_invariant h
  · rw [hw]; exact startCommand_invariant h hp
  · rw [hw]; exact invariant_of_idle hp h.memoryInv (h.abrt_of_idle hp) nofun
  · exact hw.invariant h hp (hostWrite_memoryInv h.memoryInv a d)

/-! ### Steps -/

/-- Whether a state meets the invariant, as a flag of the state. -/
noncomputable def State.meetsInvariant (s : State) : Bool := @decide (Invariant s) (Classical.propDecidable _)

theorem meetsInvariant_iff {s : State} : s.meetsInvariant = true ↔ Invariant s := by
  simp [State.meetsInvariant]

theorem meetsInvariant_keptByBus : KeptByBus State.meetsInvariant where
  rxByte := fun b _ h => meetsInvariant_iff.2 (onRxByte_invariant (meetsInvariant_iff.1 h) b)
  txAccept := fun _ h => meetsInvariant_iff.2 (onTxAccept_invariant (meetsInvariant_iff.1 h))
  txIdle := fun _ h => meetsInvariant_iff.2 (onTxIdle_invariant (meetsInvariant_iff.1 h))
  tick := fun _ h => meetsInvariant_iff.2 (onTick_invariant (meetsInvariant_iff.1 h))
  own := fun s d w ins => by
    rw [Bool.eq_iff_iff, meetsInvariant_iff, meetsInvariant_iff]
    exact ⟨fun h => h.with_own s.rej s.hRData s.sent s.inputs, fun h => h.with_own s.rej d w ins⟩

theorem onReset_invariant {s : State} (h : MemoryInv s.mem) : Invariant (onReset s) :=
  invariant_of_idle rfl h rfl nofun

theorem step_invariant_of_rst {s t : State} {c : Cycle} {rest : List Input} (h : step s = .next t) (hs : Invariant s)
    (hi : s.inputs = .cycle c :: rest) (hr : c.rst = true) : Invariant t := by
  rw [step_of_rst hi hr] at h
  cases h
  rw [uartTakes_with]
  exact (onReset_invariant (s := takeInput rest s) hs.memoryInv).with_own false _ _ _

/-- Settles O12: bus events keep the invariant, and so do a reset and a host write, in whose cycles alone a step could
drop what bus events keep. -/
theorem stepKeepsInv : Obligations.StepKeepsInv := by
  intro s t hs h
  by_contra ht
  have dropped : t.meetsInvariant = false := Bool.eq_false_iff.2 fun hm => ht (meetsInvariant_iff.1 hm)
  obtain ⟨c, rest, hi, hr | ⟨a, d, -, hset, hdrop⟩⟩ :=
    step_drops_flag meetsInvariant_keptByBus h (meetsInvariant_iff.2 hs) dropped
  · exact ht (step_invariant_of_rst h hs hi hr)
  · exact Bool.eq_false_iff.1 hdrop
      (meetsInvariant_iff.2 (hostWrite_invariant (meetsInvariant_iff.1 hset) a d))

/-! ### Reachable states (R59) -/

theorem Reachable.invariant {s : State} (h : Reachable s) : Invariant s := by
  induction h with
  | reset ins => exact invHoldsAtReset ins
  | step _ hst ih => exact stepKeepsInv _ _ ih hst

theorem SettingsFrozen.trans {s t u : State} (h : SettingsFrozen s t) (k : SettingsFrozen t u) :
    SettingsFrozen s u := by
  obtain ⟨hcfg, haddr, hopc, hlen, hlo, hhi, hbuf⟩ := h
  obtain ⟨kcfg, kaddr, kopc, klen, klo, khi, kbuf⟩ := k
  exact ⟨kcfg.trans hcfg, kaddr.trans haddr, kopc.trans hopc, klen.trans hlen, klo.trans hlo, khi.trans hhi,
    fun i hi => (kbuf i hi).trans (hbuf i hi)⟩

theorem restOfCycle_settingsFrozen (c : Cycle) (s0 t : State) :
    SettingsFrozen t (uartTakes c s0 (busEvents c t)) :=
  (uartTakes_frame c s0 (busEvents_frame c t)).settingsFrozen

/-- R59 (10): a step without reset from a busy state keeps the settings. -/
theorem step_settingsFrozen {s t : State} (hp : s.phase ≠ .idle)
    (hq : ∀ c rest, s.inputs = .cycle c :: rest → c.rst = false) (h : step s = .next t) : SettingsFrozen s t := by
  have taken (rest : List Input) : SettingsFrozen s (takeInput rest s) := .refl s
  obtain ⟨-, rfl⟩ | ⟨c, rest, hi, hr, -⟩ | ⟨c, rest, -, -, -, rfl⟩ | ⟨c, rest, w, -, -, -, -, rfl⟩ |
    ⟨c, rest, w, -, -, -, rfl⟩ | ⟨bytes, rest, f, -, -, rfl⟩ | ⟨bytes, rest, f, -, -, rfl⟩ := step_next_cases h
  · exact .refl s
  · exact absurd ((hq c rest hi).symm.trans hr) Bool.false_ne_true
  · exact (taken rest).trans (restOfCycle_settingsFrozen c _ _)
  · have written := hostWrite_settingsFrozen_of_busy (s := takeInput rest s) hp w.addr w.data
    exact ((taken rest).trans written).trans (restOfCycle_settingsFrozen c _ _)
  · exact (taken rest).trans (restOfCycle_settingsFrozen c _ _)
  · exact (taken rest).trans (takeFrame_frame f _).settingsFrozen
  · exact (taken rest).trans (deliverBytes_frame f.bytes _).settingsFrozen

theorem FaultCode.code_le (f : FaultCode) : f.code.toNat ≤ 8 := by cases f <;> decide

theorem Phase.code_le (p : Phase) : p.code.toNat ≤ 9 := by cases p <;> decide

/-- Settles O13: STATUS.BUSY by its bit, the phase invariants from the invariant of reachable states, the codes by their
types, and the frozen settings by what a step can do. -/
theorem reachableStatesMeetR59 : Obligations.ReachableStatesMeetR59 := by
  intro s hs
  refine ⟨?_, hs.invariant.toPhaseInv, s.faultCode.code_le, s.phase.code_le, fun t hp hq h =>
    step_settingsFrozen hp hq h⟩
  have hbusy : (hostRead s 0x008).getLsbD 0 = s.busy := status_getLsbD s 0
  rw [hbusy]
  exact decide_eq_true_iff

end Sys2Proof.Machine
end

section
/-! SUPPORT. A whole exchange: what it sends (O38) and its own frame received back (O51). -/

namespace Sys2Proof.Machine

/-- After START the block presents the frame the TX fields made when START was given (R132, R161). -/
theorem txFrame_beginTx (s : State) : txFrame (beginTx (clearResults s)) = (sentFrameOf s).bytes :=
  txFrame_eq_sentFrameOf rfl

/-- The instruction that names that frame hands it to the UART (R160, R167). -/
theorem exec_sentFrameOf {i : Instr} {s : State} (h : i.sentFrame = some (sentFrameOf s)) :
    exec i (beginTx (clearResults s)) = .next ((beginTx (clearResults s)).frameTaken (sentFrameOf s).bytes) := by
  rw [exec_of_sentFrame h, takeFrame_presented rfl rfl (txFrame_beginTx s)]

theorem encodeInstruction_length (addr opc : Byte) (payload : List Byte) :
    (encodeInstruction addr opc payload).length = payload.length + 6 := by
  simp [encodeInstruction]

/-- Settles O38: START presents the frame, the frame is taken whole, and its bytes are the encoding. -/
theorem exchangeSendsEncodedInstruction : Obligations.ExchangeSendsEncodedInstruction := by
  intro i s hp ha hl hi
  have hsent : ((beginTx (clearResults s)).frameTaken (sentFrameOf s).bytes).sent =
      s.sent ++ encodeInstruction s.txAddr s.txOpc s.txPayload := by
    rw [← sentFrameOf_bytes]
    rfl
  refine ⟨_, _, exec_start_of_idle hp ha hl, exec_sentFrameOf hi, rfl, rfl, hsent, ?_⟩
  rw [hsent, List.length_append, encodeInstruction_length, txPayload_length, Nat.add_assoc]

/-- The received payload is what RX_BUF holds, as far as RX_CNT counts. -/
theorem rxPayload_eq {s : State} {ps : List Byte} (hcnt : s.rxCnt.toNat = ps.length)
    (hbuf : ∀ k, k < ps.length → Memory.byteAt s.mem (0x200 + k) = ps.getD k 0) : s.rxPayload = ps := by
  apply List.ext_getElem
  · simp [State.rxPayload, hcnt]
  · intro k _ hk
    have hbyte : s.rxBuf k = ps[k] := (hbuf k hk).trans (List.getD_eq_getElem _ _ hk)
    rw [← hbyte]
    simp [State.rxPayload]

/-- The state an exchange waits for its reply in: START, the frame of its TX fields taken, and `TxIdle` (R253). -/
def State.awaitingReply (s : State) : State :=
  { (beginTx (clearResults s)).frameTaken (sentFrameOf s).bytes with tmr := 0, acc := 0x00, m1 := 0x00, phase := .rxM1 }

theorem onTxIdle_awaitingReply {s : State} (h : s.suppress = false) :
    onTxIdle ((beginTx (clearResults s)).frameTaken (sentFrameOf s).bytes) = s.awaitingReply :=
  onTxIdle_receive rfl rfl h

/-- Settles O51: the frame sent is a good status frame for TX_ADDR, delivered to a block that waits for its marker. -/
theorem echoRoundTrip : Obligations.EchoRoundTrip := by
  intro s hp ha hl hsup
  have hlen : (s.txLen + 2).toNat = s.txPayload.length + 2 := by
    rw [txPayload_length]
    bv_omega
  have hcnt : (BitVec.ofNat 8 s.txPayload.length).toNat = s.txPayload.length := by
    rw [BitVec.toNat_ofNat, txPayload_length, Nat.mod_eq_of_lt s.txLen.isLt]
  obtain ⟨m, hreply, hbuf, -⟩ := goodStatusFrameSucceeds s.awaitingReply (s.txLen + 2) s.txOpc s.txPayload
    (frameChecksum s) rfl rfl hlen rfl
  have turned := congrArg (exec (.statusFrame (sentFrameOf s))) (onTxIdle_awaitingReply hsup)
  exact ⟨_, _, _, exec_start_of_idle hp ha hl, exec_sentFrameOf (i := .instrFrame (sentFrameOf s)) rfl,
    turned.trans hreply, rfl, rfl, rfl, rfl, rfl, rfl, rxPayload_eq hcnt hbuf⟩

end Sys2Proof.Machine
end

section
/-! SUPPORT. How long an RX phase lasts: in ticks (O54) and in bytes (O55). -/

namespace Sys2Proof.Machine

/-! ### Ticks (R256, R257) -/

theorem ofNat_add_one (k : Nat) : BitVec.ofNat 16 (k + 1) = BitVec.ofNat 16 k + 1 := BitVec.ofNat_add k 1

/-- Ticks below the limit only count. -/
theorem onTick_iterate_counts {s : State} (hrx : s.phase.isRx = true) (h0 : s.tmr = 0) {k : Nat}
    (hk : k < max s.timeout.toNat 1) : onTick^[k] s = { s with tmr := BitVec.ofNat 16 k } := by
  induction k with
  | zero =>
    show s = { s with tmr := 0 }
    rw [← h0]
  | succ k ih =>
    have hlimit := s.timeout.isLt
    have hlt : BitVec.ofNat 16 k + 1 < s.timeout := by
      rw [← ofNat_add_one, BitVec.lt_def, BitVec.toNat_ofNat]
      omega
    rw [Function.iterate_succ_apply', ih (by omega), onTick_counts (s := { s with tmr := BitVec.ofNat 16 k }) hrx hlt,
      ofNat_add_one]

/-- Settles O54: the ticks before the last count, and the last brings the count to TIMEOUT. -/
theorem timesOutAfterConsecutiveTicks : Obligations.TimesOutAfterConsecutiveTicks := by
  refine fun s hrx h0 => ⟨fun k hk => onTick_iterate_counts hrx h0 hk, ?_⟩
  obtain ⟨k, hk⟩ : ∃ k, max s.timeout.toNat 1 = k + 1 := ⟨max s.timeout.toNat 1 - 1, by omega⟩
  have hlimit := s.timeout.isLt
  have hge : s.timeout ≤ BitVec.ofNat 16 k + 1 := by
    rw [← ofNat_add_one, BitVec.le_def, BitVec.toNat_ofNat]
    omega
  rw [hk, Function.iterate_succ_apply', onTick_iterate_counts hrx h0 (by omega),
    onTick_times_out (s := { s with tmr := BitVec.ofNat 16 k }) hrx hge]
  rfl

/-! ### Bytes (R265) -/

/-- The most bytes an exchange can still receive, by phase: after the length byte, as many as it says. -/
def State.bytesLeft (s : State) : Nat :=
  match s.phase with
  | .idle | .tx | .turn => 0
  | .rxM1 => 259
  | .rxM2 => 258
  | .rxAddr => 257
  | .rxLen => 256
  | .rxErr => s.rxLen.toNat
  | .rxPay => s.rxLen.toNat - 1 - s.rxCnt.toNat
  | .rxCsum => 1

theorem bytesLeft_of_idle {s : State} (h : s.phase = .idle) : s.bytesLeft = 0 := by rw [State.bytesLeft, h]

theorem bytesLeft_le (s : State) : s.bytesLeft ≤ 259 := by
  have := s.rxLen.isLt
  unfold State.bytesLeft
  split <;> omega

/-- Every byte in an RX phase leaves fewer to come. -/
theorem onRxByte_bytesLeft_lt {s : State} (h : s.PayloadFits) (hrx : s.phase.isRx = true) (b : Byte) :
    (onRxByte b s).bytesLeft < s.bytesLeft := by
  have hfits := h
  unfold State.PayloadFits at hfits
  cases hp : s.phase <;> rw [hp] at hfits
  case idle | tx | turn => rw [hp] at hrx; cases hrx
  all_goals
    rw [State.bytesLeft.eq_def s, hp]
    dsimp only
  case rxM1 => rw [onRxByte_rxM1 hp]; exact Nat.lt_succ_self 258
  case rxM2 =>
    rw [onRxByte_rxM2 hp, rxM2Byte]
    split
    · exact Nat.lt_succ_self 257
    · exact Nat.succ_pos 257
  case rxAddr =>
    rw [onRxByte_rxAddr hp, rxAddrByte]
    split
    · exact Nat.succ_pos 256
    · exact Nat.lt_succ_self 256
  case rxLen =>
    rw [onRxByte_rxLen hp, rxLenByte]
    split
    · exact Nat.succ_pos 255
    · exact b.isLt
  case rxErr =>
    obtain ⟨hcnt, hlen⟩ := hfits
    rw [onRxByte_rxErr hp]
    by_cases h2 : s.rxLen = 2
    · rw [rxErrByte_empty h2]
      exact hlen
    · rw [rxErrByte_payload h2]
      show s.rxLen.toNat - 1 - s.rxCnt.toNat < s.rxLen.toNat
      omega
  case rxPay =>
    obtain ⟨hroom, hnext⟩ := h.rxCnt_succ hp
    rw [onRxByte_rxPay hp, rxPayByte_stored hroom]
    split
    · show 1 < s.rxLen.toNat - 1 - s.rxCnt.toNat
      omega
    · show s.rxLen.toNat - 1 - (s.rxCnt + 1).toNat < s.rxLen.toNat - 1 - s.rxCnt.toNat
      dsimp only at hfits
      omega
  case rxCsum => rw [onRxByte_rxCsum hp, rxCsumByte]; split <;> exact Nat.one_pos

/-- As many bytes as an exchange can still receive end it. -/
theorem deliverBytes_ends {s : State} (h : s.PayloadFits) (hrx : s.phase.isRx = true) {bs : List Byte}
    (hn : s.bytesLeft ≤ bs.length) : (deliverBytes bs s).phase = .idle := by
  induction bs generalizing s with
  | nil => exact absurd ((onRxByte_bytesLeft_lt h hrx 0).trans_le hn) (Nat.not_lt_zero _)
  | cons b bs ih =>
    have hlt := onRxByte_bytesLeft_lt h hrx b
    rw [List.length_cons] at hn
    rw [deliverBytes_cons]
    obtain hidle | ⟨hrx', -⟩ := onRxByte_ends_or_receives hrx b
    · rwa [deliverBytes_of_not_rx (not_isRx_of_idle hidle)]
    · exact ih (onRxByte_payloadFits h b) hrx' (by omega)

/-- Settles O55: the bytes still to come are at most 259, and each byte delivered leaves fewer. -/
theorem receptionEndsWithin259Bytes : Obligations.ReceptionEndsWithin259Bytes :=
  fun s _ hinv hrx hn => deliverBytes_ends hinv.payloadFits hrx ((bytesLeft_le s).trans hn)

end Sys2Proof.Machine
end

section
/-! SUPPORT. Writes that land in IDLE (O16), and the outputs (O41). -/

namespace Sys2Proof.Machine

/-! ### Writes in IDLE (R74) -/

theorem exec_hostWr_cfg {s : State} (h : s.phase = .idle) (d : Byte) :
    exec (.hostWr 0x001 d) s = .next { s with cfg := d.extractLsb' 0 2 } :=
  congrArg Host.Outcome.next (writeRw_of_idle h fun s => { s with cfg := d.extractLsb' 0 2 })

/-- Settles O16: each writable location is written through its own lemma. -/
theorem hostWriteInIdle : Obligations.HostWriteInIdle := by
  refine fun s d hp => ⟨?_, exec_hostWr_txAddr hp d, exec_hostWr_txOpc hp d, exec_hostWr_txLen hp d,
    exec_hostWr_timeoutLo hp d, exec_hostWr_timeoutHi hp d, fun i hi => ⟨_, exec_hostWr_txBuf hp hi d, rfl,
    Memory.byteAt_write_same _ _ _, fun a ha => Memory.byteAt_write_other _ ha _⟩⟩
  rw [exec_hostWr_cfg hp, BitVec.setWidth_eq_extractLsb' (by decide)]

/-! ### The outputs (R56, R57, R286) -/

theorem txData_of_ne {s : State} (h : s.phase ≠ .tx) : s.txData = 0x00 := by
  rw [State.txData, State.txValid, decide_eq_false h]
  rfl

theorem irq_of_not_done {s : State} (h : s.done = false) : s.irq = false := by
  rw [State.irq, h, Bool.false_and]

/-- A START that reaches TX began the exchange, with DONE cleared (R132). -/
theorem startCommand_done_of_tx {s : State} (hp : s.phase = .idle) (ht : (startCommand s).phase = .tx) :
    (startCommand s).done = false := by
  refine (startCommand_done_or_idle hp).resolve_right fun hidle => ?_
  rw [ht] at hidle
  cases hidle

/-- Settles O41: TX_VALID and TX_DATA by the phase, IRQ by DONE and CFG, which the three host writes change. -/
theorem outputsFollowState : Obligations.OutputsFollowState := by
  refine fun s => ⟨decide_eq_true_iff, txData_of_tx, txData_of_ne, Bool.and_eq_true_iff, fun d t hp hd h => ?_,
    fun t hp h => ?_, fun t hp h ht => ?_⟩
  · rw [exec_hostWr_cfg hp] at h
    cases h
    rw [State.irq, State.irqEn, hd, Bool.true_and, BitVec.getLsbD_extractLsb']
    rfl
  · cases h
    rw [clearCommand_of_idle hp]
    exact irq_of_not_done rfl
  · cases h
    exact irq_of_not_done (startCommand_done_of_tx hp ht)

end Sys2Proof.Machine
end

section
/-! SUPPORT. The ways an exchange ends, and what the result registers then hold (O52). -/

namespace Sys2Proof.Machine

/-! ### A byte that ends the exchange (R192, R194, R195, R199) -/

/-- The five ways a received byte ends an exchange. -/
theorem onRxByte_ending {s : State} {b : Byte} (hrx : s.phase.isRx = true) (h : (onRxByte b s).phase = .idle) :
    (s.phase = .rxM2 ∧ onRxByte b s = complete .framing .rxM2 s) ∨
    (s.phase = .rxAddr ∧ onRxByte b s = complete .addrMismatch .rxAddr { s with rxAddr := b, acc := b }) ∨
    (s.phase = .rxLen ∧ onRxByte b s = complete .length .rxLen { s with rxLen := b, acc := s.acc + b }) ∨
    (s.phase = .rxCsum ∧
      onRxByte b s = complete .checksum .rxCsum { s with rxCsum := b, rxCalc := ~~~ s.acc }) ∨
    (s.phase = .rxCsum ∧ onRxByte b s = succeed { s with rxCsum := b, rxCalc := ~~~ s.acc }) := by
  cases hp : s.phase with
  | idle | tx | turn => rw [hp] at hrx; cases hrx
  | rxM1 => rw [onRxByte_rxM1 hp] at h; cases h
  | rxM2 =>
    rw [onRxByte_rxM2 hp, rxM2Byte] at h ⊢
    split at h
    · cases h
    · next hbad => exact .inl ⟨rfl, if_neg hbad⟩
  | rxAddr =>
    rw [onRxByte_rxAddr hp, rxAddrByte] at h ⊢
    split at h
    · next hbad => exact .inr (.inl ⟨rfl, if_pos hbad⟩)
    · cases h
  | rxLen =>
    rw [onRxByte_rxLen hp, rxLenByte] at h ⊢
    split at h
    · next hbad => exact .inr (.inr (.inl ⟨rfl, if_pos hbad⟩))
    · cases h
  | rxErr => rw [onRxByte_rxErr hp, rxErrByte] at h; dsimp only at h; split at h <;> cases h
  | rxPay => rw [onRxByte_rxPay hp, rxPayByte] at h; dsimp only at h; split at h <;> cases h
  | rxCsum =>
    rw [onRxByte_rxCsum hp, rxCsumByte]
    split
    · exact .inr (.inr (.inr (.inl ⟨rfl, rfl⟩)))
    · exact .inr (.inr (.inr (.inr ⟨rfl, rfl⟩)))

/-! ### What has been received (R202) -/

/-- The checksum the block compares is that of everything received (R199). -/
theorem InFlight.rxCsum_sum {s : State} (h : InFlight s) (hp : s.phase = .rxCsum) :
    s.rxCnt.toNat = s.rxLen.toNat - 2 ∧ ~~~ s.acc = ~~~ sum8 ([s.rxAddr, s.rxLen, s.rxErr] ++ s.rxPayload) := by
  obtain ⟨-, hfull, hacc⟩ := h.received.at_rxCsum hp
  exact ⟨by omega, congrArg (~~~ ·) hacc⟩

/-- A completion before any byte of the reply leaves nothing received. -/
theorem InFlight.nothingReceived {s : State} (h : InFlight s) (hp : s.phase ≠ .idle)
    (hc : s.phase.code.toNat ≤ 5) (f : FaultCode) (p : Phase) : NothingReceived (complete f p s) := by
  obtain ⟨haddr, hlen, herr, hcnt⟩ := h.received.nothing hp hc
  obtain ⟨hcsum, hcalc⟩ := h.no_csum
  exact ⟨haddr, hlen, herr, hcnt, hcsum, hcalc, rfl⟩

/-- A completion in an RX phase, with what its own phase has not reached still 0. -/
theorem InFlight.keptUpTo {s : State} (h : InFlight s) (hp : s.phase ≠ .idle) (f : FaultCode) (n : BitVec 16) :
    KeptUpTo s.phase s (complete f s.phase { s with tmr := n }) := by
  obtain ⟨haddr, hlen, herr, -⟩ := h.received.by_code hp
  have kept : ∀ (k : Nat) (v : Byte), (s.phase.code.toNat ≤ k → v = 0) →
      v = if k < s.phase.code.toNat then v else 0 := by
    intro k v hv
    split
    · rfl
    · next hk => exact hv (Nat.not_lt.1 hk)
  exact ⟨kept 5 _ haddr, kept 6 _ hlen, kept 7 _ fun hk => (herr hk).1, rfl, rfl, h.no_csum.1, h.no_csum.2, rfl⟩

/-! ### The table of R202 -/

/-- What the table of R202 says of an exchange that ended in `t` on byte `b`, having stood at `s`. -/
def ByteResults (b : Byte) (s t : State) : Prop :=
  (t.faultCode = .framing → NothingReceived t) ∧
  (t.faultCode = .addrMismatch → NothingReceived { t with rxAddr := 0 } ∧ t.rxAddr = b) ∧
  (t.faultCode = .length →
    NothingReceived { t with rxAddr := 0, rxLen := 0 } ∧ t.rxAddr = s.rxAddr ∧ t.rxLen = b) ∧
  (t.faultCode = .checksum ∨ t.faultCode = .none →
    t.rxAddr = s.rxAddr ∧ t.rxLen = s.rxLen ∧ t.rxErr = s.rxErr ∧ t.rxCnt.toNat = s.rxLen.toNat - 2 ∧
      t.rxPayload = s.rxPayload ∧ t.rxCsum = b ∧
      t.rxCalc = ~~~ sum8 ([s.rxAddr, s.rxLen, s.rxErr] ++ s.rxPayload)) ∧
  (t.faultCode = .checksum → t.deverr = false) ∧
  (t.faultCode = .none → t.deverr = decide (s.rxErr ≠ 0))

theorem onRxByte_byteResults {s : State} (h : InFlight s) (hrx : s.phase.isRx = true) {b : Byte}
    (hend : (onRxByte b s).phase = .idle) : ByteResults b s (onRxByte b s) := by
  have busy := busy_of_isRx hrx
  obtain ⟨haddr, hlen, herr, -⟩ := h.received.by_code busy
  obtain ⟨hp, ht⟩ | ⟨hp, ht⟩ | ⟨hp, ht⟩ | ⟨hp, ht⟩ | ⟨hp, ht⟩ := onRxByte_ending hrx hend
  all_goals
    rw [ht]
    rw [hp] at haddr hlen herr
  · exact ⟨fun _ => h.nothingReceived busy (by rw [hp]; decide) _ _, nofun, nofun, nofun, nofun, nofun⟩
  · obtain ⟨herr, hcnt⟩ := herr (by decide)
    exact ⟨nofun, fun _ => ⟨⟨rfl, hlen (by decide), herr, hcnt, h.no_csum.1, h.no_csum.2, rfl⟩, rfl⟩,
      nofun, nofun, nofun, nofun⟩
  · obtain ⟨herr, hcnt⟩ := herr (by decide)
    exact ⟨nofun, nofun, fun _ => ⟨⟨rfl, rfl, herr, hcnt, h.no_csum.1, h.no_csum.2, rfl⟩, rfl, rfl⟩,
      nofun, nofun, nofun⟩
  · obtain ⟨hcnt, hsum⟩ := h.rxCsum_sum hp
    exact ⟨nofun, nofun, nofun, fun _ => ⟨rfl, rfl, rfl, hcnt, rfl, rfl, hsum⟩, fun _ => rfl, nofun⟩
  · obtain ⟨hcnt, hsum⟩ := h.rxCsum_sum hp
    exact ⟨nofun, nofun, nofun, fun _ => ⟨rfl, rfl, rfl, hcnt, rfl, rfl, hsum⟩, nofun, fun _ => rfl⟩

theorem onTick_results {s : State} (h : InFlight s) (hrx : s.phase.isRx = true) (hend : (onTick s).phase = .idle) :
    (onTick s).faultCode = .timeout ∧ KeptUpTo s.phase s (onTick s) := by
  have busy := busy_of_isRx hrx
  have ht : s.timeout ≤ s.tmr + 1 := by
    by_contra hlt
    rw [onTick_counts hrx (BitVec.not_le.1 hlt)] at hend
    exact busy hend
  rw [onTick_times_out hrx ht]
  exact ⟨rfl, h.keptUpTo busy .timeout (s.tmr + 1)⟩

theorem onTxIdle_results {s : State} (h : InFlight s) (hp : s.phase = .turn) (hend : (onTxIdle s).phase = .idle) :
    NothingReceived (onTxIdle s) := by
  have busy : s.phase ≠ .idle := by rw [hp]; nofun
  have hcode : s.phase.code.toNat ≤ 5 := by rw [hp]; decide
  cases ha : s.abrt with
  | true => rw [onTxIdle_aborted hp ha]; exact h.nothingReceived busy hcode _ _
  | false =>
    cases hs : s.suppress with
    | true => rw [onTxIdle_suppressed hp ha hs]; exact h.nothingReceived busy hcode _ _
    | false => rw [onTxIdle_receive hp ha hs] at hend; cases hend

/-- A START that ends in IDLE failed its check, after clearing the results (R132). -/
theorem startCommand_results {s : State} (hp : s.phase = .idle) (hend : (startCommand s).phase = .idle) :
    NothingReceived (startCommand s) := by
  rw [startCommand, if_pos hp] at hend ⊢
  split at hend
  · exact ⟨rfl, rfl, rfl, rfl, rfl, rfl, rfl⟩
  · cases hend

/-- Settles O52, by the way the exchange ends: a byte, a tick, an ABORT, the turnaround, or START's own check. -/
theorem resultsWhenExchangeEnds : Obligations.ResultsWhenExchangeEnds := by
  intro s hinv
  have busy (hrx : s.phase.isRx = true) := hinv.inFlight (busy_of_isRx hrx)
  refine ⟨fun b hrx hend => onRxByte_byteResults (busy hrx) hrx hend,
    fun hrx hend => onTick_results (busy hrx) hrx hend,
    fun t hrx h => ?_, fun hp hend => ?_, fun t hp h hend => ?_⟩
  · cases h
    rw [abortCommand_of_isRx hrx]
    exact ⟨rfl, (busy hrx).keptUpTo (busy_of_isRx hrx) .aborted s.tmr⟩
  · exact onTxIdle_results (hinv.inFlight (by rw [hp]; nofun)) hp hend
  · cases h
    exact startCommand_results hp hend

end Sys2Proof.Machine
end

section
/-! SUPPORT. The pure decoder `decode(a, r)` line by line (R204). -/

namespace Sys2Proof.Machine

/-- The bytes of a reply, cut where the decoder's lines cut them: the marker, address, length and error byte, the
payload, the checksum byte, and what comes later. -/
def replyBytes (a len err : Byte) (payload : List Byte) (c : Byte) (later : List Byte) : List Byte :=
  [Config.marker, Config.marker, a, len, err] ++ payload ++ c :: later

section
variable (a : Byte)

theorem decodeStatus_short {r : List Byte} (h : r.length < 2) : decodeStatus a r = .needMore := if_pos h

theorem decodeStatus_badMarker {m1 m2 : Byte} (h : ¬ (m1 = Config.marker ∧ m2 = Config.marker)) (rest : List Byte) :
    decodeStatus a (m1 :: m2 :: rest) = .fault .framing 2 := by
  simp [decodeStatus, h]

theorem decodeStatus_markers : decodeStatus a [Config.marker, Config.marker] = .needMore := by
  simp [decodeStatus]

theorem decodeStatus_badAddr {b : Byte} (h : b ≠ a) (rest : List Byte) :
    decodeStatus a (Config.marker :: Config.marker :: b :: rest) = .fault .addrMismatch 3 := by
  simp [decodeStatus, h]

theorem decodeStatus_addr : decodeStatus a [Config.marker, Config.marker, a] = .needMore := by
  simp [decodeStatus]

theorem decodeStatus_badLen {len : Byte} (h : len.toNat < 2) (rest : List Byte) :
    decodeStatus a (Config.marker :: Config.marker :: a :: len :: rest) = .fault .length 4 := by
  simp +arith [decodeStatus, h]

theorem decodeStatus_shortBody {len : Byte} (h : 2 ≤ len.toNat) {rest : List Byte} (hr : rest.length < len.toNat) :
    decodeStatus a (Config.marker :: Config.marker :: a :: len :: rest) = .needMore := by
  simp [decodeStatus, Nat.not_lt.2 h, hr]

theorem decodeStatus_reply {len : Byte} (err : Byte) {payload : List Byte} (h : payload.length + 2 = len.toNat)
    (c : Byte) (later : List Byte) : decodeStatus a (replyBytes a len err payload c later) =
      if c = ~~~ sum8 (a :: len :: err :: payload) then .ok err payload (len.toNat + 4)
      else .fault .checksum (len.toNat + 4) := by
  simp +arith [decodeStatus, replyBytes, ← h]

end

/-- The lines of `decode(a, r)`: each way the received bytes can look, and how the decoder then ends. -/
inductive DecodeLine (a : Byte) : List Byte → DecodeEnd → Prop where
  | short {r : List Byte} (h : r.length < 2) : DecodeLine a r .needMore
  | badMarker {m1 m2 : Byte} (h : ¬ (m1 = Config.marker ∧ m2 = Config.marker)) (rest : List Byte) :
      DecodeLine a (m1 :: m2 :: rest) (.fault .framing 2)
  | markers : DecodeLine a [Config.marker, Config.marker] .needMore
  | badAddr {b : Byte} (h : b ≠ a) (rest : List Byte) :
      DecodeLine a (Config.marker :: Config.marker :: b :: rest) (.fault .addrMismatch 3)
  | addr : DecodeLine a [Config.marker, Config.marker, a] .needMore
  | badLen {len : Byte} (h : len.toNat < 2) (rest : List Byte) :
      DecodeLine a (Config.marker :: Config.marker :: a :: len :: rest) (.fault .length 4)
  | shortBody {len : Byte} (h : 2 ≤ len.toNat) {rest : List Byte} (hr : rest.length < len.toNat) :
      DecodeLine a (Config.marker :: Config.marker :: a :: len :: rest) .needMore
  | badChecksum {len : Byte} (err : Byte) {payload : List Byte} (h : payload.length + 2 = len.toNat) {c : Byte}
      (hc : c ≠ ~~~ sum8 (a :: len :: err :: payload)) (later : List Byte) :
      DecodeLine a (replyBytes a len err payload c later) (.fault .checksum (len.toNat + 4))
  | good {len : Byte} (err : Byte) {payload : List Byte} (h : payload.length + 2 = len.toNat) {c : Byte}
      (hc : c = ~~~ sum8 (a :: len :: err :: payload)) (later : List Byte) :
      DecodeLine a (replyBytes a len err payload c later) (.ok err payload (len.toNat + 4))

/-- Bytes enough for the body a length byte asks for, cut into error byte, payload, checksum byte and the rest. -/
theorem exists_body {n : Nat} (h : 2 ≤ n) {rest : List Byte} (hr : n ≤ rest.length) :
    ∃ err payload c later, payload.length + 2 = n ∧ rest = err :: (payload ++ c :: later) := by
  obtain ⟨err, tail, rfl⟩ := List.exists_cons_of_length_pos (show 0 < rest.length by omega)
  rw [List.length_cons] at hr
  have hcut : n - 2 < tail.length := by omega
  refine ⟨err, tail.take (n - 2), tail[n - 2], tail.drop (n - 1), ?_, ?_⟩
  · rw [List.length_take]
    omega
  · rw [show n - 1 = n - 2 + 1 by omega, List.getElem_cons_drop, List.take_append_drop]

/-- Every sequence of received bytes is decoded by one of the lines. -/
theorem decodeLine (a : Byte) (r : List Byte) : DecodeLine a r (decodeStatus a r) := by
  match r with
  | [] => exact .short Nat.two_pos
  | [b] => exact .short Nat.one_lt_two
  | m1 :: m2 :: r =>
    by_cases hm : m1 = Config.marker ∧ m2 = Config.marker
    swap
    · rw [decodeStatus_badMarker a hm]; exact .badMarker hm r
    obtain ⟨rfl, rfl⟩ := hm
    match r with
    | [] => rw [decodeStatus_markers]; exact .markers
    | b :: r =>
      by_cases hb : b = a
      swap
      · rw [decodeStatus_badAddr a hb]; exact .badAddr hb r
      subst hb
      match r with
      | [] => rw [decodeStatus_addr]; exact .addr
      | len :: r =>
        rcases Nat.lt_or_ge len.toNat 2 with hlen | hlen
        · rw [decodeStatus_badLen b hlen]; exact .badLen hlen r
        rcases Nat.lt_or_ge r.length len.toNat with hr | hr
        · rw [decodeStatus_shortBody b hlen hr]; exact .shortBody hlen hr
        obtain ⟨err, payload, c, later, hn, rfl⟩ := exists_body hlen hr
        have hline := decodeStatus_reply b err hn c later
        show DecodeLine b (replyBytes b len err payload c later) (decodeStatus b (replyBytes b len err payload c later))
        rw [hline]
        split
        · next hc => exact .good err hn hc later
        · next hc => exact .badChecksum err hn hc later

end Sys2Proof.Machine
end

section
/-! SUPPORT. The RX phases run the pure decoder (O49), and a flipped bit changes how it ends (O50). -/

namespace Sys2Proof.Machine

/-! ### Where a reception stands (R190) -/

/-- A block that still receives was receiving all along. -/
theorem isRx_of_isRx_append {p q : List Byte} {s : State} (h : (deliverBytes (p ++ q) s).phase.isRx = true) :
    (deliverBytes p s).phase.isRx = true := by
  by_contra hp
  rw [deliverBytes_append, deliverBytes_of_not_rx (Bool.eq_false_iff.2 hp)] at h
  exact hp h

/-- What `decode(a, r)` ending as `e` says of the block in `s` that is delivered the bytes `r` (R204). -/
def MeetsDecode (s : State) (r : List Byte) : DecodeEnd → Prop
  | .needMore => (deliverBytes r s).phase.isRx = true
  | .fault code n =>
    (∀ k, k < n → (deliverBytes (r.take k) s).phase.isRx = true) ∧ deliverBytes r s = deliverBytes (r.take n) s ∧
      (deliverBytes r s).phase = .idle ∧ (deliverBytes r s).done = true ∧ (deliverBytes r s).faultCode = code
  | .ok err payload n =>
    (∀ k, k < n → (deliverBytes (r.take k) s).phase.isRx = true) ∧ deliverBytes r s = deliverBytes (r.take n) s ∧
      (deliverBytes r s).phase = .idle ∧ (deliverBytes r s).done = true ∧ (deliverBytes r s).faultCode = .none ∧
      (deliverBytes r s).rxErr = err ∧ (deliverBytes r s).rxPayload = payload

/-- A byte that ends an exchange which the bytes before it have not ended: the end comes with that byte and no sooner,
and later bytes are dropped (R203). -/
theorem deliverBytes_ends_with_byte {p : List Byte} {b : Byte} {s t u : State} (hp : deliverBytes p s = t)
    (hrx : t.phase.isRx = true) (hb : onRxByte b t = u) (hu : u.phase = .idle) {n : Nat} (hn : n = p.length + 1)
    (later : List Byte) :
    (∀ k, k < n → (deliverBytes ((p ++ b :: later).take k) s).phase.isRx = true) ∧
      deliverBytes ((p ++ b :: later).take n) s = u ∧ deliverBytes (p ++ b :: later) s = u := by
  subst hp hb hn
  refine ⟨fun k hk => ?_, ?_, ?_⟩
  · rw [List.take_append_of_le_length (Nat.le_of_lt_succ hk)]
    rw [← List.take_append_drop k p] at hrx
    exact isRx_of_isRx_append hrx
  · rw [List.take_append, List.take_of_length_le (Nat.le_succ _), Nat.add_sub_cancel_left, List.take_succ_cons,
      List.take_zero, deliverBytes_append]
    rfl
  · rw [deliverBytes_append, deliverBytes_cons, deliverBytes_of_not_rx (not_isRx_of_idle hu)]

theorem meetsDecode_fault {p : List Byte} {b : Byte} {s t u : State} (hp : deliverBytes p s = t)
    (hrx : t.phase.isRx = true) {code : FaultCode} {q : Phase} (hb : onRxByte b t = complete code q u) {n : Nat}
    (hn : n = p.length + 1) (later : List Byte) : MeetsDecode s (p ++ b :: later) (.fault code n) := by
  obtain ⟨hwait, hn, hall⟩ := deliverBytes_ends_with_byte hp hrx hb (complete_phase code q u) hn later
  rw [MeetsDecode, hn, hall]
  exact ⟨hwait, rfl, rfl, rfl, rfl⟩

/-! ### The states between the header's bytes -/

section
variable {s : State} (hp : s.phase = .rxM1)
include hp

theorem deliverBytes_marker (m1 : Byte) : deliverBytes [m1] s = { s with m1 := m1, tmr := 0, phase := .rxM2 } :=
  onRxByte_rxM1 hp m1

theorem deliverBytes_markers :
    deliverBytes [Config.marker, Config.marker] s = { s with m1 := Config.marker, tmr := 0, phase := .rxAddr } := by
  rw [deliverBytes_cons, onRxByte_rxM1 hp, deliverBytes_cons, onRxByte_rxM2 rfl, rxM2Byte_good rfl, deliverBytes_nil]
  rfl

theorem deliverBytes_addr :
    deliverBytes [Config.marker, Config.marker, s.txAddr] s =
      { s with m1 := Config.marker, rxAddr := s.txAddr, acc := s.txAddr, tmr := 0, phase := .rxLen } := by
  show deliverBytes ([Config.marker, Config.marker] ++ [s.txAddr]) s = _
  rw [deliverBytes_append, deliverBytes_markers hp, deliverBytes_cons, onRxByte_rxAddr rfl, rxAddrByte_good,
    deliverBytes_nil]
  rfl

/-- A body that stops short of what its length byte says leaves the block waiting. -/
theorem isRx_of_shortBody (hcnt : s.rxCnt = 0) {len : Byte} (h : 2 ≤ len.toNat) {rest : List Byte}
    (hr : rest.length < len.toNat) :
    (deliverBytes (Config.marker :: Config.marker :: s.txAddr :: len :: rest) s).phase.isRx = true := by
  obtain ⟨err, payload, hbody⟩ := List.exists_cons_of_length_pos
    (show 0 < (rest ++ List.replicate (len.toNat - 1 - rest.length) 0).length by simp; omega)
  have hlen : len.toNat = payload.length + 2 := by
    have hl := congrArg List.length hbody
    rw [List.length_append, List.length_replicate, List.length_cons] at hl
    omega
  refine isRx_of_isRx_append (q := List.replicate (len.toNat - 1 - rest.length) 0) ?_
  show (deliverBytes ([Config.marker, Config.marker, s.txAddr, len] ++ (rest ++ _)) s).phase.isRx = true
  rw [hbody]
  exact (congrArg (·.phase.isRx) (deliverBytes_reply hp hcnt hlen err)).trans rfl

end

/-- The payload of a reply taken whole is what its bytes say (R198). -/
theorem replyTaken_rxPayload (len err : Byte) {payload : List Byte} (h : payload.length < 256) (s : State) :
    (s.replyTaken len err payload).rxPayload = payload := by
  have hcnt : (BitVec.ofNat 8 payload.length).toNat = payload.length := by
    rw [BitVec.toNat_ofNat, Nat.mod_eq_of_lt h]
  refine rxPayload_eq hcnt fun k hk => ?_
  rw [List.getD_eq_getElem _ _ hk]
  exact Memory.byteAt_writeRun payload s.mem 0x200 hk

theorem meetsDecode_of_decodeLine {s : State} (hp : s.phase = .rxM1) (hcnt : s.rxCnt = 0) {r : List Byte}
    {e : DecodeEnd} (h : DecodeLine s.txAddr r e) : MeetsDecode s r e := by
  cases h with
  | short h =>
    match r with
    | [] => rw [MeetsDecode, deliverBytes_nil, hp]; rfl
    | [m1] => rw [MeetsDecode, deliverBytes_marker hp]; rfl
    | _ :: _ :: r => exact absurd h (by simp)
  | badMarker h rest =>
    exact meetsDecode_fault (deliverBytes_marker hp _) rfl ((onRxByte_rxM2 rfl _).trans (rxM2Byte_bad h)) rfl rest
  | markers => rw [MeetsDecode, deliverBytes_markers hp]; rfl
  | badAddr h rest =>
    exact meetsDecode_fault (deliverBytes_markers hp) rfl ((onRxByte_rxAddr rfl _).trans (rxAddrByte_bad h)) rfl rest
  | addr => rw [MeetsDecode, deliverBytes_addr hp]; rfl
  | badLen h rest =>
    exact meetsDecode_fault (deliverBytes_addr hp) rfl ((onRxByte_rxLen rfl _).trans (rxLenByte_bad h _)) rfl rest
  | shortBody h hr => exact isRx_of_shortBody hp hcnt h hr
  | badChecksum err h hc later =>
    exact meetsDecode_fault (deliverBytes_reply hp hcnt h.symm err) rfl
      ((onRxByte_rxCsum rfl _).trans (rxCsumByte_bad hc)) (by simp; omega) later
  | @good len err payload h c hc later =>
    have hb : onRxByte c (s.replyTaken len err payload) = _ := (onRxByte_rxCsum rfl _).trans (rxCsumByte_good hc)
    obtain ⟨hwait, hn, hall⟩ := deliverBytes_ends_with_byte (deliverBytes_reply hp hcnt h.symm err) rfl hb rfl
      (n := len.toNat + 4) (by simp; omega) later
    rw [MeetsDecode, replyBytes, hn, hall]
    exact ⟨hwait, rfl, rfl, rfl, rfl, rfl, replyTaken_rxPayload len err (by have := len.isLt; omega) s⟩

/-- Settles O49, by the line of the decoder that the bytes run into. -/
theorem receptionIsPureDecode : Obligations.ReceptionIsPureDecode :=
  fun s r hp hcnt => meetsDecode_of_decodeLine hp hcnt (decodeLine s.txAddr r)

/-! ### A flipped bit (R205) -/

/-- Flipping a bit of a byte changes the byte. -/
theorem flip_ne {k : Nat} (hk : k < 8) (b : Byte) : b ^^^ BitVec.twoPow 8 k ≠ b := by
  intro h
  have hbit := congrArg (BitVec.getLsbD · k) h
  simp [hk] at hbit

/-- Changing one byte changes the sum. -/
theorem sum8_set_ne {bs : List Byte} {i : Nat} (hi : i < bs.length) {v : Byte} (hv : v ≠ bs[i]) :
    sum8 (bs.set i v) ≠ sum8 bs := by
  induction bs generalizing i with
  | nil => exact absurd hi (Nat.not_lt_zero i)
  | cons b bs ih =>
    cases i with
    | zero => simpa [sum8] using hv
    | succ i => simpa [sum8] using ih (Nat.lt_of_succ_lt_succ hi) hv

/-- A checksum of some bytes is no checksum of bytes with another sum. -/
theorem ne_checksum {bs bs' : List Byte} (h : sum8 bs' ≠ sum8 bs) : ~~~ sum8 bs ≠ ~~~ sum8 bs' :=
  fun hc => h (BitVec.not_inj.1 hc).symm

section
variable {a len err c : Byte} {payload later : List Byte} {j : Nat}

theorem replyBytes_getD_payload (h : j < payload.length) :
    (replyBytes a len err payload c later).getD (j + 5) 0 = payload[j] := by
  simp [replyBytes, List.getElem?_append_left h, h]

theorem replyBytes_set_payload (h : j < payload.length) (v : Byte) :
    (replyBytes a len err payload c later).set (j + 5) v = replyBytes a len err (payload.set j v) c later := by
  simp [replyBytes, h]

theorem replyBytes_getD_checksum : (replyBytes a len err payload c later).getD (payload.length + 5) 0 = c := by
  simp [replyBytes]

theorem replyBytes_set_checksum (v : Byte) :
    (replyBytes a len err payload c later).set (payload.length + 5) v = replyBytes a len err payload v later := by
  simp [replyBytes]

end

/-- Settles O50: a flipped marker or address byte fails its own check, and any other byte of the sum, or the checksum
byte, parts the two sides of the checksum equation. -/
theorem singleBitCorruptionIsCaught : Obligations.SingleBitCorruptionIsCaught := by
  intro a r err payload n j k hr hj hj3 hk
  have line := decodeLine a r
  rw [hr] at line
  cases line with
  | @good len _ _ hlen c hc later =>
  have flipped (b : Byte) : b ^^^ BitVec.twoPow 8 k ≠ b := flip_ne hk b
  match j with
  | 0 => exact decodeStatus_badMarker a (fun h => flipped _ h.1) _
  | 1 => exact decodeStatus_badMarker a (fun h => flipped _ h.2) _
  | 2 => exact decodeStatus_badAddr a (flipped a) _
  | 3 => exact absurd rfl hj3
  | 4 =>
    have hsum : sum8 (a :: len :: (err ^^^ BitVec.twoPow 8 k) :: payload) ≠ sum8 (a :: len :: err :: payload) :=
      sum8_set_ne (i := 2) (bs := a :: len :: err :: payload) (by simp) (flipped err)
    exact (decodeStatus_reply a _ hlen c later).trans (if_neg (hc ▸ ne_checksum hsum))
  | j + 5 =>
    rw [if_neg (by omega), if_neg (by omega)]
    rcases Nat.lt_or_ge j payload.length with hlt | hge
    · have hlen' : (payload.set j (payload[j] ^^^ BitVec.twoPow 8 k)).length + 2 = len.toNat := by rwa [List.length_set]
      have hsum : sum8 (a :: len :: err :: payload.set j (payload[j] ^^^ BitVec.twoPow 8 k)) ≠
          sum8 (a :: len :: err :: payload) :=
        sum8_set_ne (i := j + 3) (bs := a :: len :: err :: payload) (by simpa using hlt) (flipped payload[j])
      rw [replyBytes_getD_payload hlt, replyBytes_set_payload hlt, decodeStatus_reply a err hlen' c later]
      exact if_neg (hc ▸ ne_checksum hsum)
    · obtain rfl : j = payload.length := by omega
      rw [replyBytes_getD_checksum, replyBytes_set_checksum, decodeStatus_reply a err hlen _ later]
      exact if_neg (hc ▸ flipped c)

end Sys2Proof.Machine
end
